-- ==== Sys2Proof/Word.lean ====
section
/-! DEFINITION. The words and the enumerated data of the block (spec/00_scope.md R8, R9; spec/30_encoding.md R88).
Types only: every function over them stands in a file under Machine/ or in Decode.lean. -/

namespace Sys2Proof

/-- A command word, a response value or an event word: 32 bits, bit 0 least significant (R8, R80, R87, R216). -/
abbrev Word := BitVec 32

/-- One byte of a byte-wide transport (R62). -/
abbrev Byte := BitVec 8

/-- HallState (R88): bit 0, 1, 2 = Hall line 1, 2, 3. -/
abbrev HallCode := BitVec 3

/-- Angle16 (R9): 65536 units make one turn. -/
abbrev Angle16 := BitVec 16

/-- Width16 (R9): an unsigned pulse-width or tick count. -/
abbrev Width16 := BitVec 16

/-- Width16Diff (R9): a signed pulse-width count, read by `BitVec.toInt`. -/
abbrev Width16Diff := BitVec 16

/-- Velocity32 (R9, conflict C1): signed Angle16 units per second, read by `BitVec.toInt`. -/
abbrev Velocity32 := BitVec 32

/-- The three phases (R88, R185); there is no fourth (U14). -/
inductive Phase where
  | A
  | B
  | C
deriving DecidableEq, Repr

/-- The cached direction of rotation (R26): +1, -1, or 0 for unknown. The pattern 0b10 cannot be written down (U14). -/
inductive Direction where
  | forward
  | reverse
  | unknown
deriving DecidableEq, Repr

/-- The role of a phase in a commutation bucket (R88, R145). -/
inductive Role where
  | pos
  | neg
  | float
deriving DecidableEq, Repr

/-- The three folded commutation buckets 0, 1, 2 (R144). -/
inductive Bucket where
  | zero
  | one
  | two
deriving DecidableEq, Repr

/-- Response status (R87), in the order of its codes 0 to 3. -/
inductive Status where
  | fail
  | ok
  | illegal
  | halted
deriving DecidableEq, Repr

/-- One value for each phase. -/
structure PerPhase (α : Type) where
  a : α
  b : α
  c : α
deriving DecidableEq, Repr

/-- One value for each commutation bucket. -/
structure PerBucket (α : Type) where
  zero : α
  one : α
  two : α
deriving DecidableEq, Repr

/-- One value for each of the eight Hall codes 0 to 7. -/
structure PerCode (α : Type) where
  c0 : α
  c1 : α
  c2 : α
  c3 : α
  c4 : α
  c5 : α
  c6 : α
  c7 : α
deriving DecidableEq, Repr

end Sys2Proof
end

