-- ==== Sys2Proof/Config.lean ====
section
/-! DEFINITION. The configuration record (spec/00_scope.md R6) and the reference configuration CFG_REF.
Every parameter is OPEN (spec/92_eei_decisions.md part 2): the machine takes the record as data that no operation
writes (R234), and what is stated of the machine is stated for every well-formed record (WellFormed.lean, R7).
The spec leaves no result undefined (R235), so there is no free value here. -/

namespace Sys2Proof

/-- The configuration constants of R6. The derived ones (MAXAMP, HALL_K, CAPTURE_FREQ_MS) are functions of these
(Machine/Math.lean). Counts are natural numbers; R7 bounds each of them. -/
structure Config where
  /-- `PWM_PERIOD` -/
  pwmPeriod : Nat
  /-- `HALL_CAPTURE_FREQ_HZ` -/
  hallCaptureFreqHz : Nat
  /-- `COUNT_MAX` -/
  countMax : Nat
  /-- `SERVO_CAPTURE_FREQ_HZ` -/
  servoCaptureFreqHz : Nat
  /-- `SERVO_LOW` -/
  servoLow : Nat
  /-- `SERVO_HIGH` -/
  servoHigh : Nat
  /-- `SERVO_MARGIN` -/
  servoMargin : Nat
  /-- `SERVO_DEADBAND` -/
  servoDeadband : Nat
  /-- `SLEW_LIMIT` -/
  slewLimit : Nat
  /-- `SERVO_OVF_LIMIT` -/
  servoOvfLimit : Nat
  /-- `HALL_ANGLE[0..7]` (R121); `none` is INVALID, the absence of a value -/
  hallAngle : PerCode (Option Angle16)
  /-- `HALL_NEXT[0..7]` (R122); `none` where the table is undefined and never read -/
  hallNext : PerCode (Option HallCode)
  /-- `COMM_TABLE[0..2]` (R145) -/
  commTable : PerBucket (PerPhase Role)
deriving DecidableEq, Repr

/-- The default `HALL_ANGLE` of R121. PRESUMED by the spec (D6): entries 2, 3, 4, 6 are from general knowledge.
Log entry 8; unsafe for a claim that rests on the default. -/
def Config.defaultHallAngle : PerCode (Option Angle16) :=
  { c0 := none, c1 := some 0, c2 := some 43691, c3 := some 54613, c4 := some 21845, c5 := some 10923,
    c6 := some 32768, c7 := none }

/-- The default `HALL_NEXT` of R122: 1, 5, 4, 6, 2, 3 and round again. PRESUMED by the spec (D6); log entry 8. -/
def Config.defaultHallNext : PerCode (Option HallCode) :=
  { c0 := none, c1 := some 5, c2 := some 3, c3 := some 1, c4 := some 6, c5 := some 4, c6 := some 2, c7 := none }

/-- The default `COMM_TABLE` of R145. PRESUMED by the spec (D8); log entry 8. -/
def Config.defaultCommTable : PerBucket (PerPhase Role) :=
  { zero := { a := .float, b := .pos, c := .neg }
    one := { a := .neg, b := .pos, c := .float }
    two := { a := .neg, b := .float, c := .pos } }

/-- CFG_REF, the last column of R6's table (D28: the spec's own choice, for examples). DESIGN CHOICE that the machine
after reset carries this record; log entry 1. -/
def Config.ref : Config :=
  { pwmPeriod := 2000
    hallCaptureFreqHz := 100000
    countMax := 65535
    servoCaptureFreqHz := 1000000
    servoLow := 1200
    servoHigh := 1800
    servoMargin := 100
    servoDeadband := 17
    slewLimit := 10
    servoOvfLimit := 2
    hallAngle := Config.defaultHallAngle
    hallNext := Config.defaultHallNext
    commTable := Config.defaultCommTable }

end Sys2Proof
end

