-- ==== Sys2Proof/Machine/Tables.lean ====
section
/-! DEFINITION. Reading the tables: per phase, per bucket, per Hall code; validity of a Hall code (R123) and the two
Hall tables (R121, R122). -/

namespace Sys2Proof

/-- The value for phase `p`. -/
def PerPhase.get {α : Type} (t : PerPhase α) : Phase → α
  | .A => t.a
  | .B => t.b
  | .C => t.c

/-- `t` with the value for phase `p` replaced and the other two kept. -/
def PerPhase.set {α : Type} (t : PerPhase α) (p : Phase) (x : α) : PerPhase α :=
  match p with
  | .A => { t with a := x }
  | .B => { t with b := x }
  | .C => { t with c := x }

/-- The same function applied for each phase. -/
def PerPhase.map {α β : Type} (f : α → β) (t : PerPhase α) : PerPhase β :=
  { a := f t.a, b := f t.b, c := f t.c }

/-- The same value for all three phases. -/
def PerPhase.const {α : Type} (x : α) : PerPhase α := { a := x, b := x, c := x }

/-- The value for bucket `b`. -/
def PerBucket.get {α : Type} (t : PerBucket α) : Bucket → α
  | .zero => t.zero
  | .one => t.one
  | .two => t.two

/-- The value for Hall code `k`. -/
def PerCode.get {α : Type} (t : PerCode α) (k : HallCode) : α :=
  match k.toNat with
  | 0 => t.c0
  | 1 => t.c1
  | 2 => t.c2
  | 3 => t.c3
  | 4 => t.c4
  | 5 => t.c5
  | 6 => t.c6
  | _ => t.c7

/-- `Valid(s)` (R123): all codes but 0 (all clear) and 7 (all set). -/
def validCode (k : HallCode) : Bool := k != 0 && k != 7

/-- The six valid Hall codes (R123). -/
def validCodes : List HallCode := [1, 2, 3, 4, 5, 6]

/-- `HALL_ANGLE[k]` (R121), `none` for INVALID. -/
def Config.hallAngleAt (c : Config) (k : HallCode) : Option Angle16 := c.hallAngle.get k

/-- `HALL_NEXT[k]` (R122), `none` where undefined. -/
def Config.hallNextAt (c : Config) (k : HallCode) : Option HallCode := c.hallNext.get k

/-- The number a direction stands for (R26). -/
def Direction.sign : Direction → Int
  | .forward => 1
  | .reverse => -1
  | .unknown => 0

/-- The s2 pattern a direction is stored as (R26, R88). -/
def Direction.bits : Direction → BitVec 2
  | .forward => 0b01
  | .reverse => 0b11
  | .unknown => 0b00

/-- The code of a status (R87). -/
def Status.code : Status → BitVec 2
  | .fail => 0
  | .ok => 1
  | .illegal => 2
  | .halted => 3

/-- The number of a phase (R88, R185). -/
def Phase.number : Phase → BitVec 2
  | .A => 0
  | .B => 1
  | .C => 2

end Sys2Proof
end

