-- ==== Sys2Proof/Machine/Math.lean ====
section
/-! DEFINITION. Arithmetic (spec/00_scope.md R10, R11; spec/40_math.md R100 to R116). Every intermediate is an exact
integer (R100, R9); a value becomes bits only at an explicit narrowing.
Outside its domain (U2) a function here still has a value, since Lean's functions are total; no operation calls one
outside its domain in a well-formed configuration (R126, R129, R164). Log entry 17. -/

namespace Sys2Proof

/-- `MAXAMP = floor(PWM_PERIOD / 2)` (R6, R114). -/
def Config.maxAmp (c : Config) : Nat := c.pwmPeriod / 2

/-- `HALL_K = floor(HALL_CAPTURE_FREQ_HZ / 6) * 65536` (R6, R110). -/
def Config.hallK (c : Config) : Nat := c.hallCaptureFreqHz / 6 * 65536

/-- `CAPTURE_FREQ_MS = floor(SERVO_CAPTURE_FREQ_HZ / 1000)` (R6). -/
def Config.captureFreqMs (c : Config) : Nat := c.servoCaptureFreqHz / 1000

end Sys2Proof

namespace Sys2Proof.Machine

/-- `wrap16(x)` (R10): `x mod 65536` as 16 bits, for any integer. -/
def wrap16 (x : Int) : BitVec 16 := BitVec.ofInt 16 x

/-- `tdiv(a, b)` (R10, R107): quotient truncated toward zero. -/
def tdiv (a b : Int) : Int := Int.tdiv a b

/-- `clamp(x, lo, hi)` (R10). -/
def clamp (x lo hi : Int) : Int := if x < lo then lo else if x > hi then hi else x

/-- `AngleAdd(a, b)` (R101). -/
def angleAdd (a b : Angle16) : Angle16 := wrap16 ((a.toNat : Int) + (b.toNat : Int))

/-- `AngleSub(a, b)` (R101). -/
def angleSub (a b : Angle16) : Angle16 := wrap16 ((a.toNat : Int) - (b.toNat : Int))

/-- `AngleDiff(a, b)` (R102): the signed shortest way from `b` to `a`. -/
def angleDiff (a b : Angle16) : Int := (angleSub a b).toInt

/-- `Average(a, b) = a + tdiv(b - a, 2)` (R104). -/
def average (a b : Int) : Int := a + tdiv (b - a) 2

/-- `Sign(x)` (R105). -/
def signOf (x : Int) : Int := if x > 0 then 1 else if x < 0 then -1 else 0

/-- `Abs(x)` (R106), without narrowing. -/
def absOf (x : Int) : Int := if x ≥ 0 then x else -x

/-- `DegreesToAngle16(d)` (R108). -/
def degreesToAngle16 (d : Nat) : Angle16 := wrap16 (((d * 65536 + 180) / 360 : Nat) : Int)

/-- `Angle16ToDegrees(a)` (R109). -/
def angle16ToDegrees (a : Angle16) : Nat := (a.toNat * 360 + 32768) / 65536

/-- `OFFSET30` (R11). -/
def offset30 : Nat := 5461

/-- `T60` (R11). -/
def t60 : Nat := 10923

/-- `T120` (R11). -/
def t120 : Nat := 21845

/-- `T180` (R11). -/
def t180 : Nat := 32768

/-- `SpeedFromTicks(t) = floor(HALL_K / t)` (R110), for `t` from 1 to 65535. -/
def speedFromTicks (c : Config) (t : Nat) : Nat := c.hallK / t

/-- The deadband step of `MapRange` (R111): a centred input with the deadband's contribution taken out. -/
def deadbanded (x deadband : Int) : Int :=
  if absOf x ≤ deadband then 0 else if x > 0 then x - deadband else x + deadband

/-- `MapRange(in_low, in_high, x, out_low, out_high, deadband)` (R111). -/
def mapRange (inLow inHigh x outLow outHigh deadband : Int) : Int :=
  let inC := average inLow inHigh
  let outC := average outLow outHigh
  let c := deadbanded (x - inC) deadband
  let y :=
    if c = 0 then outC
    else if c > 0 then outC + tdiv (c * (outHigh - outC)) (inHigh - inC - deadband)
    else outC + tdiv (c * (outC - outLow)) (inC - inLow - deadband)
  clamp y outLow outHigh

/-- The slew bound `m = floor(SLEW_LIMIT * period / CAPTURE_FREQ_MS)` of R113, product first. -/
def slewBound (c : Config) (period : Nat) : Nat := c.slewLimit * period / c.captureFreqMs

/-- `SlewStep(last, target, period)` (R113). -/
def slewStep (c : Config) (last target : Int) (period : Nat) : Int :=
  last + clamp (target - last) (-(slewBound c period : Int)) (slewBound c period)

/-- `SatInc8(n) = min(n + 1, 255)` (R115). -/
def satInc8 (n : BitVec 8) : BitVec 8 := BitVec.ofNat 8 (min (n.toNat + 1) 255)

end Sys2Proof.Machine
end

