-- ==== Sys2Proof/Syntax.lean ====
section
/-! DEFINITION. The seventeen operations (spec/30_encoding.md R83, R84; spec/opcode_table.json), one constructor each,
with their operands decoded to the types of R82 and R88. -/

namespace Sys2Proof

/-- The operation set of R84: seventeen operations, no other exists. Operands stand in the assembly order of R89. -/
inductive Instr where
  /-- HALL_EDGE `code, ticks` (R124) -/
  | hallEdge (code : HallCode) (ticks : Width16)
  /-- HALL_OVF (R125) -/
  | hallOvf
  /-- ROTOR_STEP (R126) -/
  | rotorStep
  /-- COMPUTE_ANGLE `live` (R128) -/
  | computeAngle (live : HallCode)
  /-- COMPUTE_VELOCITY `now` (R129) -/
  | computeVelocity (now : Width16)
  /-- SIGNAL_CHANGE (R141) -/
  | signalChange
  /-- WRITE_AMPLITUDE `value` (R142), a signed 16-bit value -/
  | writeAmplitude (value : Width16Diff)
  /-- GET_MAX_AMPLITUDE (R143) -/
  | getMaxAmplitude
  /-- COMM_STEP `live` (R146) -/
  | commStep (live : HallCode)
  /-- SET_ENABLE `en` (R147) -/
  | setEnable (en : Bool)
  /-- SERVO_WIDTH `width` (R161) -/
  | servoWidth (width : Width16)
  /-- SERVO_PERIOD `period, valid` (R162) -/
  | servoPeriod (period : Width16) (valid : Bool)
  /-- SERVO_OVF (R163) -/
  | servoOvf
  /-- GET_PERIOD (R181) -/
  | getPeriod
  /-- WRITE_CHANNEL `phase, width, enabled` (R182); phase 3 cannot be written down (U14) -/
  | writeChannel (phase : Phase) (width : Width16) (enabled : Bool)
  /-- SYNC_MODES (R183) -/
  | syncModes
  /-- FAULT_POLL `fault` (R191) -/
  | faultPoll (fault : Bool)
deriving DecidableEq, Repr

end Sys2Proof
end

