-- ==== Sys2Proof/WellFormed.lean ====
section
/-! DEFINITION. What is well formed: a configuration record (spec/00_scope.md R7, clauses (a) to (j)) and a command
word (the operation map of spec/30_encoding.md R83). An `Instr` has no ill-formed terms: its operands' types leave
none to write down (U14), so the check on syntax is the one on words. -/

namespace Sys2Proof

open Sys2Proof.Machine

/-- R7(a). -/
def Config.wfPwmPeriod (c : Config) : Bool := decide (2 ≤ c.pwmPeriod) && decide (c.pwmPeriod ≤ 65535)

/-- R7(b). -/
def Config.wfHallFreq (c : Config) : Bool :=
  decide (6 ≤ c.hallCaptureFreqHz) && decide (c.hallCaptureFreqHz ≤ 196607)

/-- R7(c). -/
def Config.wfCountMax (c : Config) : Bool := decide (1 ≤ c.countMax) && decide (c.countMax ≤ 65535)

/-- R7(d). -/
def Config.wfServoFreq (c : Config) : Bool := decide (1000 ≤ c.servoCaptureFreqHz)

/-- R7(e): both divisors of `MapRange` are positive. -/
def Config.wfServoRange (c : Config) : Bool :=
  decide (c.servoLow < c.servoHigh) &&
  decide ((c.servoDeadband : Int) < average c.servoLow c.servoHigh - c.servoLow) &&
  decide ((c.servoDeadband : Int) < c.servoHigh - average c.servoLow c.servoHigh)

/-- R7(f). -/
def Config.wfServoMargin (c : Config) : Bool := decide (c.servoHigh + c.servoMargin ≤ 65535)

/-- R7(g). -/
def Config.wfSlewLimit (c : Config) : Bool := decide (c.slewLimit ≤ 65535)

/-- R7(h). -/
def Config.wfOvfLimit (c : Config) : Bool := decide (1 ≤ c.servoOvfLimit) && decide (c.servoOvfLimit ≤ 255)

/-- R7(i), first half: exactly codes 0 and 7 are INVALID, the six others have six distinct angles. -/
def Config.wfHallAngle (c : Config) : Bool :=
  (c.hallAngleAt 0).isNone && (c.hallAngleAt 7).isNone &&
  validCodes.all (fun k => (c.hallAngleAt k).isSome) &&
  decide (validCodes.map c.hallAngleAt).Nodup

/-- The codes met on following `HALL_NEXT` for `n` steps from `k` (the start not counted). -/
def Config.hallOrbit (c : Config) : Nat → HallCode → List HallCode
  | 0, _ => []
  | n + 1, k =>
    match c.hallNextAt k with
    | some k' => k' :: c.hallOrbit n k'
    | none => []

/-- R7(i), second half: `HALL_NEXT` is a single 6-cycle over the six valid codes. Six steps from code 1 meet six
distinct valid codes, the last of them code 1 again. -/
def Config.wfHallNext (c : Config) : Bool :=
  let o := c.hallOrbit 6 1
  decide (o.length = 6) && decide o.Nodup && o.all validCode && decide (o.getLast? = some 1)

/-- Exactly one POS, one NEG and one FLOAT in a row of `COMM_TABLE`. -/
def rowWf (r : PerPhase Role) : Bool := decide ([r.a, r.b, r.c].Nodup)

/-- R7(j). -/
def Config.wfCommTable (c : Config) : Bool :=
  rowWf c.commTable.zero && rowWf c.commTable.one && rowWf c.commTable.two

/-- R7: all of (a) to (j). -/
def Config.wf (c : Config) : Bool :=
  c.wfPwmPeriod && c.wfHallFreq && c.wfCountMax && c.wfServoFreq && c.wfServoRange && c.wfServoMargin &&
  c.wfSlewLimit && c.wfOvfLimit && c.wfHallAngle && c.wfHallNext && c.wfCommTable

/-- One row of the operation map (R83). -/
structure OpRow where
  /-- the operation number, `W[31:24]` -/
  op : BitVec 8
  /-- the column `match` -/
  pattern : Word
  /-- the column `mask` -/
  mask : Word
  /-- whether the row carries the extra condition `phase != 3` -/
  phaseNot3 : Bool
deriving DecidableEq, Repr

/-- `(W & mask) = match`, and the extra condition where the row has one (R83). -/
def OpRow.selects (r : OpRow) (w : Word) : Bool :=
  (w &&& r.mask) == r.pattern && (!r.phaseNot3 || w.extractLsb' 16 2 != 3)

/-- The operation map of R83, row by row. -/
def opTable : List OpRow :=
  [ ⟨0x10, 0x10000000, 0xFFF80000, false⟩, ⟨0x11, 0x11000000, 0xFFFFFFFF, false⟩,
    ⟨0x12, 0x12000000, 0xFFFFFFFF, false⟩, ⟨0x13, 0x13000000, 0xFFF8FFFF, false⟩,
    ⟨0x14, 0x14000000, 0xFFFF0000, false⟩, ⟨0x20, 0x20000000, 0xFFFFFFFF, false⟩,
    ⟨0x21, 0x21000000, 0xFFFF0000, false⟩, ⟨0x22, 0x22000000, 0xFFFFFFFF, false⟩,
    ⟨0x23, 0x23000000, 0xFFF8FFFF, false⟩, ⟨0x24, 0x24000000, 0xFFFFFFFE, false⟩,
    ⟨0x30, 0x30000000, 0xFFFF0000, false⟩, ⟨0x31, 0x31000000, 0xFFFE0000, false⟩,
    ⟨0x32, 0x32000000, 0xFFFFFFFF, false⟩, ⟨0x40, 0x40000000, 0xFFFFFFFF, false⟩,
    ⟨0x41, 0x41000000, 0xFFF80000, true⟩, ⟨0x42, 0x42000000, 0xFFFFFFFF, false⟩,
    ⟨0x50, 0x50000000, 0xFFFFFFFE, false⟩ ]

/-- A command word is legal exactly when some row selects it (R83, R85). -/
def legalWord (w : Word) : Bool := opTable.any (fun r => r.selects w)

end Sys2Proof
end

