-- ==== Sys2Proof/Decode.lean ====
section
/-! DEFINITION. The decoder, total on 32-bit words and on byte lists, and the encoder, both written from the formats of
spec/30_encoding.md R80 to R83. Words are bit vectors with bit 0 least significant; a byte-wide transport is
little-endian (spec/20_memory.md R62). -/

namespace Sys2Proof

/-- Why a word spells no operation (R85). Each of them is answered ILLEGAL. -/
inductive DecodeError where
  /-- `op` is no row of R83 -/
  | unassignedOp
  /-- a listed `op` with a reserved bit set -/
  | reservedBitSet
  /-- WRITE_CHANNEL with `phase = 3` -/
  | phaseThree
  /-- fewer than four bytes are left (byte-wide transport only) -/
  | shortWord
deriving DecidableEq, Repr

/-- `W[31:24]` (R80). -/
def opField (w : Word) : BitVec 8 := w.extractLsb' 24 8

/-- `W[18:16]`: `code`, `live`, or `enabled` over `phase` (R81). -/
def f3Field (w : Word) : BitVec 3 := w.extractLsb' 16 3

/-- `W[15:0]` (R81). -/
def f16Field (w : Word) : BitVec 16 := w.extractLsb' 0 16

/-- `W[16]`: `valid` of format F17. -/
def bit16 (w : Word) : Bool := w.getLsbD 16

/-- `W[18]`: `enabled` of format FC. -/
def bit18 (w : Word) : Bool := w.getLsbD 18

/-- `W[0]`: `b` of format F1. -/
def bit0 (w : Word) : Bool := w.getLsbD 0

/-- `W[17:16]` as a phase, where it names one (R88). -/
def phaseField (w : Word) : Option Phase :=
  match (w.extractLsb' 16 2).toNat with
  | 0 => some .A
  | 1 => some .B
  | 2 => some .C
  | _ => none

/-- The reserved bits of format F0, `W[23:0]`, are 0. -/
def clearF0 (w : Word) : Bool := w.extractLsb' 0 24 == 0

/-- The reserved bits of formats FH and FC, `W[23:19]`, are 0. -/
def clearFH (w : Word) : Bool := w.extractLsb' 19 5 == 0

/-- The reserved bits of format FL, `W[23:19]` and `W[15:0]`, are 0. -/
def clearFL (w : Word) : Bool := w.extractLsb' 19 5 == 0 && w.extractLsb' 0 16 == 0

/-- The reserved bits of format F16, `W[23:16]`, are 0. -/
def clearF16 (w : Word) : Bool := w.extractLsb' 16 8 == 0

/-- The reserved bits of format F17, `W[23:17]`, are 0. -/
def clearF17 (w : Word) : Bool := w.extractLsb' 17 7 == 0

/-- The reserved bits of format F1, `W[23:1]`, are 0. -/
def clearF1 (w : Word) : Bool := w.extractLsb' 1 23 == 0

/-- Accept an operation whose reserved bits are clear (R80). -/
def ifClear (clear : Bool) (i : Instr) : Except DecodeError Instr :=
  if clear then .ok i else .error .reservedBitSet

/-- Steps (2) to (4) of the decoding procedure of R91, without the test of `halted`, which is the machine's. -/
def decode (w : Word) : Except DecodeError Instr :=
  match (opField w).toNat with
  | 0x10 => ifClear (clearFH w) (.hallEdge (f3Field w) (f16Field w))
  | 0x11 => ifClear (clearF0 w) .hallOvf
  | 0x12 => ifClear (clearF0 w) .rotorStep
  | 0x13 => ifClear (clearFL w) (.computeAngle (f3Field w))
  | 0x14 => ifClear (clearF16 w) (.computeVelocity (f16Field w))
  | 0x20 => ifClear (clearF0 w) .signalChange
  | 0x21 => ifClear (clearF16 w) (.writeAmplitude (f16Field w))
  | 0x22 => ifClear (clearF0 w) .getMaxAmplitude
  | 0x23 => ifClear (clearFL w) (.commStep (f3Field w))
  | 0x24 => ifClear (clearF1 w) (.setEnable (bit0 w))
  | 0x30 => ifClear (clearF16 w) (.servoWidth (f16Field w))
  | 0x31 => ifClear (clearF17 w) (.servoPeriod (f16Field w) (bit16 w))
  | 0x32 => ifClear (clearF0 w) .servoOvf
  | 0x40 => ifClear (clearF0 w) .getPeriod
  | 0x41 =>
    match phaseField w with
    | some p => ifClear (clearFH w) (.writeChannel p (f16Field w) (bit18 w))
    | none => .error .phaseThree
  | 0x42 => ifClear (clearF0 w) .syncModes
  | 0x50 => ifClear (clearF1 w) (.faultPoll (bit0 w))
  | _ => .error .unassignedOp

/-- The operation number of an instruction (R83). -/
def Instr.op : Instr → BitVec 8
  | .hallEdge _ _ => 0x10
  | .hallOvf => 0x11
  | .rotorStep => 0x12
  | .computeAngle _ => 0x13
  | .computeVelocity _ => 0x14
  | .signalChange => 0x20
  | .writeAmplitude _ => 0x21
  | .getMaxAmplitude => 0x22
  | .commStep _ => 0x23
  | .setEnable _ => 0x24
  | .servoWidth _ => 0x30
  | .servoPeriod _ _ => 0x31
  | .servoOvf => 0x32
  | .getPeriod => 0x40
  | .writeChannel _ _ _ => 0x41
  | .syncModes => 0x42
  | .faultPoll _ => 0x50

/-- A boolean as one bit, 1 = true (R82). -/
def flagBit (b : Bool) : Word := if b then 1 else 0

/-- `op` in `W[31:24]`, `f3` in `W[18:16]`, `f16` in `W[15:0]`, every other bit 0. -/
def wordOf (op : BitVec 8) (f3 : BitVec 3) (f16 : BitVec 16) : Word :=
  op.setWidth 32 <<< 24 ||| f3.setWidth 32 <<< 16 ||| f16.setWidth 32

/-- The number of a phase as a field value (R88). -/
def phaseBits : Phase → BitVec 3
  | .A => 0
  | .B => 1
  | .C => 2

/-- The command word of an instruction (R81 to R83). -/
def encode (i : Instr) : Word :=
  match i with
  | .hallEdge code ticks => wordOf 0x10 code ticks
  | .hallOvf => wordOf 0x11 0 0
  | .rotorStep => wordOf 0x12 0 0
  | .computeAngle live => wordOf 0x13 live 0
  | .computeVelocity now => wordOf 0x14 0 now
  | .signalChange => wordOf 0x20 0 0
  | .writeAmplitude value => wordOf 0x21 0 value
  | .getMaxAmplitude => wordOf 0x22 0 0
  | .commStep live => wordOf 0x23 live 0
  | .setEnable en => wordOf 0x24 0 0 ||| flagBit en
  | .servoWidth width => wordOf 0x30 0 width
  | .servoPeriod period valid => wordOf 0x31 0 period ||| flagBit valid <<< 16
  | .servoOvf => wordOf 0x32 0 0
  | .getPeriod => wordOf 0x40 0 0
  | .writeChannel phase width enabled => wordOf 0x41 (phaseBits phase) width ||| flagBit enabled <<< 18
  | .syncModes => wordOf 0x42 0 0
  | .faultPoll fault => wordOf 0x50 0 0 ||| flagBit fault

/-- Four bytes as a word, the first byte least significant (R62). -/
def wordOfBytes (b0 b1 b2 b3 : Byte) : Word :=
  b3.setWidth 32 <<< 24 ||| b2.setWidth 32 <<< 16 ||| b1.setWidth 32 <<< 8 ||| b0.setWidth 32

/-- A word as four bytes, the least significant first (R62). -/
def bytesOfWord (w : Word) : List Byte :=
  [w.extractLsb' 0 8, w.extractLsb' 8 8, w.extractLsb' 16 8, w.extractLsb' 24 8]

/-- Decode the first command of a byte-wide transport and return the bytes after it (R62, R86: always four). -/
def decodeBytes : List Byte → Except DecodeError (Instr × List Byte)
  | b0 :: b1 :: b2 :: b3 :: rest =>
    match decode (wordOfBytes b0 b1 b2 b3) with
    | .ok i => .ok (i, rest)
    | .error e => .error e
  | _ => .error .shortWord

/-- The command as the bytes of a byte-wide transport (R62). -/
def encodeBytes (i : Instr) : List Byte := bytesOfWord (encode i)

/-- What the decoder reads from `nbits` bits with value `w`, every bit above them 0. -/
def decodeTableWord (nbits w : Nat) : Option Instr :=
  let v := w % 2 ^ nbits
  if v < 2 ^ 32 then
    match decode (BitVec.ofNat 32 v) with
    | .ok i => some i
    | .error _ => none
  else none

end Sys2Proof
end

