-- ==== Sys2Proof/Machine/State.lean ====
section
/-! DEFINITION. The state of the machine (spec/10_state.md R20 to R40, R47), the reasons a step can stop, and reset.
The block has no memory, no register file and no program counter (R20, R43, R60), so nothing here is addressed. -/

namespace Sys2Proof.Machine

/-- A channel register (R39, R40, R88): pulse width and enable bit. -/
structure Channel where
  width : Width16
  enabled : Bool
deriving DecidableEq, Repr

/-- A log event (R216). `halt` carries the offending 16-bit value of WRITE_AMPLITUDE. -/
inductive Event where
  /-- `EV_GLITCH(p, c)`, emitted by ROTOR_STEP -/
  | glitch (p c : HallCode)
  /-- `EV_ANGLE_FAULT`, emitted by COMM_STEP -/
  | angleFault
  /-- `EV_HALT(value)`, emitted by WRITE_AMPLITUDE -/
  | halt (value : Width16Diff)
deriving DecidableEq, Repr

/-- The answer to one command word (R87). -/
structure Response where
  status : Status
  value : Word
deriving DecidableEq, Repr

/-- What the environment presents at the block's `cmd` and `reset` ports at one instant (R61, R230). -/
inductive PortInput where
  /-- a command word, with `reset` not asserted -/
  | command (w : Word)
  /-- `reset` asserted, with or without a command word presented meanwhile (R230) -/
  | reset (presented : Option Word)
deriving DecidableEq, Repr

/-- The whole state. From `hallCur` to `active` it is the tuple of R20, 236 bits; after it come the two output streams
of the block as sequences (R216, R87) and the model's own fields: the configuration record, what the environment will
present, and the histories that R222 says a model records. No rule reads a history (R48). -/
structure State where
  /-- `hall_cur` (R21) -/
  hallCur : HallCode
  /-- `hall_prev` (R22) -/
  hallPrev : HallCode
  /-- `counts_elapsed` (R23), 0 for no edge observed -/
  countsElapsed : Width16
  /-- `hall_overflow` (R24) -/
  hallOverflow : Bool
  /-- `velocity` (R25), signed -/
  velocity : Velocity32
  /-- `direction` (R26) -/
  direction : Direction
  /-- `rotor_pending` (R38) -/
  rotorPending : Bool
  /-- `semi_amplitude` (R29), signed -/
  semiAmplitude : Width16Diff
  /-- `enabled` (R30) -/
  enabled : Bool
  /-- `drv_fault` (R31) -/
  drvFault : Bool
  /-- `comm_pending` (R33) -/
  commPending : Bool
  /-- `halted` (R32) -/
  halted : Bool
  /-- `servo_width` (R34) -/
  servoWidth : Width16
  /-- `servo_period` (R35); no rule reads it after the operation that writes it -/
  servoPeriod : Width16
  /-- `servo_ovf_count` (R36) -/
  servoOvfCount : BitVec 8
  /-- `last_amplitude` (R37), signed -/
  lastAmplitude : Width16Diff
  /-- `staged[A..C]` (R39) -/
  staged : PerPhase Channel
  /-- `active[A..C]` (R40) -/
  active : PerPhase Channel
  /-- the log port's stream so far, oldest first (R216) -/
  log : List Event
  /-- the responses so far, oldest first (R87); the response port shows the last -/
  responses : List Response
  /-- the command words accepted so far, oldest first (R222) -/
  commands : List Word
  /-- the output triples committed so far, oldest first (R222) -/
  commits : List (PerPhase Channel)
  /-- the configuration record (R6), which no operation writes (R234); log entry 1 -/
  cfg : Config
  /-- what the environment presents next, oldest first (R68, R74); log entry 2 -/
  inputs : List PortInput
deriving DecidableEq, Repr

/-- The channel value `(0, 0)` of the reset table (R47). -/
def channelOff : Channel := { width := 0, enabled := false }

/-- Why the machine stops with a fault. -/
inductive Fault where
  /-- `HALL_ANGLE` gave no angle for a code that is valid (U12: "`fault` if a model's table lookup is ever reached with
  an invalid code"). Raised by COMPUTE_ANGLE and COMM_STEP through `computeAngle`; no well-formed configuration
  reaches it. Safe: the machine stops where the spec gives no value. -/
  | sentinelRead
deriving DecidableEq, Repr

/-- Why an operation has no meaning. -/
inductive Refusal where
  /-- An instruction with no meaning yet; raised by an arm of `exec` only. Safe. -/
  | notModelled (mnemonic : String)
  /-- The configuration is ill-formed, and "the spec gives no meaning to an ill-formed configuration (a model refuses
  it)" (R7, U11). Raised by `step` and by every operation. Safe. -/
  | illFormedConfig
deriving DecidableEq, Repr

/-- The machine right after reset: the table of R47, value for value. The configuration is CFG_REF and nothing is
presented yet, both DESIGN CHOICE (log entries 1 and 2). -/
def State.reset : State :=
  { hallCur := 0
    hallPrev := 0
    countsElapsed := 0
    hallOverflow := false
    velocity := 0
    direction := .unknown
    rotorPending := false
    semiAmplitude := 0
    enabled := false
    drvFault := true
    commPending := true
    halted := false
    servoWidth := 0
    servoPeriod := 0
    servoOvfCount := 0
    lastAmplitude := 0
    staged := { a := channelOff, b := channelOff, c := channelOff }
    active := { a := channelOff, b := channelOff, c := channelOff }
    log := []
    responses := []
    commands := []
    commits := []
    cfg := Config.ref
    inputs := [] }

end Sys2Proof.Machine
end

