-- ==== Sys2Proof/Machine/Flags.lean ====
section
/-! DEFINITION. The block has no arithmetic condition codes (spec/10_state.md R44). Its flags are the six one-bit flags
of R42; here are the operations on them that more than one rule uses. Posting is idempotent (R33, R72). -/

namespace Sys2Proof.Machine

/-- `post(rotor_pending)` (R10, R38). -/
def postRotor (s : State) : State := { s with rotorPending := true }

/-- `post(comm_pending)` (R10, R33). -/
def postComm (s : State) : State := { s with commPending := true }

/-- The rotor sequencer consumes its signal (R126). -/
def consumeRotor (s : State) : State := { s with rotorPending := false }

/-- The commutation sequencer consumes its signal, before any input is read (R33, R146). -/
def consumeComm (s : State) : State := { s with commPending := false }

/-- Write `hall_overflow` (R24). -/
def setHallOverflow (b : Bool) (s : State) : State := { s with hallOverflow := b }

/-- Write `enabled` (R30). -/
def setEnabled (b : Bool) (s : State) : State := { s with enabled := b }

/-- Write `drv_fault` (R31). -/
def setDrvFault (b : Bool) (s : State) : State := { s with drvFault := b }

/-- Latch `halted` (R32). -/
def latchHalted (s : State) : State := { s with halted := true }

end Sys2Proof.Machine
end

