-- ==== Sys2Proof/Machine/Operands.lean ====
section
/-! DEFINITION. Operand and value forms: how a field is read as a number (spec/30_encoding.md R82), how a result is
carried by the response (R87), how a result is narrowed into a register (R9, R100), and the packed forms of R88. -/

namespace Sys2Proof.Machine

/-- A u16 field or register as a number: zero-extended (R82). -/
def u16 (x : BitVec 16) : Int := (x.toNat : Int)

/-- An s16 field or register as a number: sign-extended (R82, `sext_16` of R10). -/
def s16 (x : BitVec 16) : Int := x.toInt

/-- A number narrowed into a 16-bit register. The rules only narrow values that fit (R100); see log entry 16. -/
def narrow16 (x : Int) : BitVec 16 := BitVec.ofInt 16 x

/-- A number narrowed into the 32-bit velocity register (R116: it fits). -/
def narrow32 (x : Int) : BitVec 32 := BitVec.ofInt 32 x

/-- A u16 result in a response: zero-extended to 32 bits (R87). -/
def valueU16 (x : BitVec 16) : Word := x.setWidth 32

/-- An s16 result in a response: sign-extended to 32 bits (R87). -/
def valueS16 (x : BitVec 16) : Word := x.signExtend 32

/-- A channel register as its 17 bits: bit 16 = `enabled`, bits 15:0 = `width` (R88). -/
def Channel.bits (ch : Channel) : BitVec 17 := ch.width.setWidth 17 ||| (if ch.enabled then 1 else 0) <<< 16

end Sys2Proof.Machine
end

