-- ==== Sys2Proof/Machine/Ops.lean ====
section
/-! DEFINITION. The shared operations: answering, logging, the channel registers, the halted latch, taking the one
exception the block has (the fatal halt) and leaving it (reset), and the output ports. -/

namespace Sys2Proof.Machine

/-- What a meaning answers. -/
abbrev Result := Host.Outcome State Fault Refusal

/-- `respond(status, value)` (R10, R87). -/
def respond (status : Status) (value : Word) (s : State) : State :=
  { s with responses := s.responses ++ [{ status := status, value := value }] }

/-- `emit(E)` (R10, R216). -/
def emit (e : Event) (s : State) : State := { s with log := s.log ++ [e] }

/-- End an operation with a response. -/
def answer (status : Status) (value : Word) (s : State) : Result := .next (respond status value s)

/-- Every operation is performed through this. An ill-formed configuration is refused (R7); while `halted` is 1 the
answer is HALTED and nothing else happens (R211, R91(1)); otherwise the operation's own rule runs. -/
def operate (s : State) (rule : State → Result) : Result :=
  if s.cfg.wf then
    if s.halted then answer .halted 0 s else rule s
  else .refused .illFormedConfig

/-- Taking the exception: `raise AmplitudePrecondition(value)` (R10, R142), which is the halt entry of R211. `halted`
becomes 1, `EV_HALT(value)` is emitted, the answer is HALTED and nothing else is written: nothing is saved, no mode
changes, control goes nowhere. -/
def raiseAmplitudePrecondition (value : Width16Diff) (s : State) : Result :=
  answer .halted 0 (emit (.halt value) (latchHalted s))

/-- Leaving it: only the `reset` input clears `halted` (R212), and it brings every state element to the value of R47
(R230). The configuration is no state of the block, and what the environment will present is the environment's. -/
def resetBlock (s : State) : State := { State.reset with cfg := s.cfg, inputs := s.inputs }

/-- Write `semi_amplitude` (R29). -/
def setSemiAmplitude (v : Width16Diff) (s : State) : State := { s with semiAmplitude := v }

/-- Write `servo_width` (R34). -/
def setServoWidth (w : Width16) (s : State) : State := { s with servoWidth := w }

/-- Write `servo_period` (R35). -/
def setServoPeriod (p : Width16) (s : State) : State := { s with servoPeriod := p }

/-- Write `servo_ovf_count` (R36). -/
def setServoOvfCount (n : BitVec 8) (s : State) : State := { s with servoOvfCount := n }

/-- `staged[p] <- (width, enabled)` (R182). -/
def stage (p : Phase) (ch : Channel) (s : State) : State := { s with staged := s.staged.set p ch }

/-- All three staged registers written by one COMM_STEP (R146). -/
def stageAll (t : PerPhase Channel) (s : State) : State := { s with staged := t }

/-- The commit of R183 and of R146: all three staged registers become active in one transition, and keep their
values. The committed triple is recorded (R222). -/
def commit (s : State) : State := { s with active := s.staged, commits := s.commits ++ [s.staged] }

/-- The 32-bit event word (R216): code in bits 31:24, payload below. -/
def Event.word : Event → Word
  | .glitch p c => (1 : Word) <<< 24 ||| p.setWidth 32 <<< 3 ||| c.setWidth 32
  | .angleFault => (2 : Word) <<< 24
  | .halt value => (3 : Word) <<< 24 ||| value.setWidth 32

/-- The `resp` port (R61, R87): the answer to the latest command word, none before the first (R47). -/
def State.resp (s : State) : Option Response := s.responses.getLast?

/-- The 2 + 32 bits of a response (R61, R87) as one bit vector. That the status stands above the value is a DESIGN CHOICE:
the spec gives a pair and no bit positions. Log entry 26. -/
def Response.bits (r : Response) : BitVec 34 := r.status.code.setWidth 34 <<< 32 ||| r.value.setWidth 34

/-- The `log` port (R61, R216): the stream of event words so far. -/
def State.logPort (s : State) : List Word := s.log.map Event.word

/-- The `pwm_width[p]` output (R41, R61). -/
def State.pwmWidth (s : State) (p : Phase) : Width16 := (s.active.get p).width

/-- The `pwm_enable[p]` output (R41, R61). -/
def State.pwmEnable (s : State) (p : Phase) : Bool := (s.active.get p).enabled

/-- The `pwm_period` output (R41, R61), the constant `PWM_PERIOD`. -/
def State.pwmPeriod (s : State) : Width16 := BitVec.ofNat 16 s.cfg.pwmPeriod

/-- The `halted` pin (R32, R61). -/
def State.haltedPin (s : State) : Bool := s.halted

end Sys2Proof.Machine
end

