-- ==== Sys2Proof/Machine/Rotor.lean ====
section
/-! DEFINITION. The rotor angle and velocity estimator (spec/41_rotor.md R120 to R133). -/

namespace Sys2Proof.Machine

/-- An accepted edge (R124): the pair shifts, the tick count is stored (saturated after an overflow), the overflow
flag is cleared and both signals are posted. -/
def acceptEdge (code : HallCode) (ticks : Width16) (s : State) : State :=
  postComm (postRotor
    { s with
      hallPrev := s.hallCur
      hallCur := code
      countsElapsed := if s.hallOverflow then BitVec.ofNat 16 s.cfg.countMax else ticks
      hallOverflow := false })

/-- HALL_EDGE `code, ticks` (R124). A repeat of the current code is debounced: no state changes. -/
def execHallEdge (code : HallCode) (ticks : Width16) (s : State) : Result :=
  operate s fun s => if code = s.hallCur then answer .ok 0 s else answer .ok 0 (acceptEdge code ticks s)

/-- HALL_OVF (R125). -/
def execHallOvf (s : State) : Result :=
  operate s fun s => answer .ok 0 (setHallOverflow true s)

/-- `ClassifyDirection(p, c)` (R127). -/
def classifyDirection (cfg : Config) (p c : HallCode) : Direction :=
  if validCode p && validCode c && cfg.hallNextAt p == some c then .forward
  else if validCode p && validCode c && cfg.hallNextAt c == some p then .reverse
  else .unknown

/-- Write the cached velocity and direction together (R126). -/
def setVelocity (v : Int) (d : Direction) (s : State) : State := { s with velocity := narrow32 v, direction := d }

/-- The body of one iteration of the rotor computation sequencer (R126), the signal already consumed. -/
def rotorUpdate (s : State) : State :=
  if s.countsElapsed = 0 then setVelocity 0 .unknown s
  else
    match classifyDirection s.cfg s.hallPrev s.hallCur with
    | .unknown => setVelocity 0 .unknown (emit (.glitch s.hallPrev s.hallCur) s)
    | d => setVelocity (d.sign * speedFromTicks s.cfg s.countsElapsed.toNat) d s

/-- ROTOR_STEP (R126). With nothing pending it answers FAIL and does nothing. -/
def execRotorStep (s : State) : Result :=
  operate s fun s =>
    if s.rotorPending then answer .ok 0 (rotorUpdate (consumeRotor s)) else answer .fail 0 s

/-- `ComputeAngle(live)` (R128): the cached code if it is valid, else the live one; no angle if neither is. The table
is read for valid codes only; a missing entry there is the fault of U12. -/
def computeAngle (cfg : Config) (cached live : HallCode) : Except Fault (Option Angle16) :=
  let k := if validCode cached then cached else live
  if validCode k then
    match cfg.hallAngleAt k with
    | some a => .ok (some a)
    | none => .error .sentinelRead
  else .ok none

/-- COMPUTE_ANGLE `live` (R128). It writes no state; the value with FAIL is 0. -/
def execComputeAngle (live : HallCode) (s : State) : Result :=
  operate s fun s =>
    match computeAngle s.cfg s.hallCur live with
    | .ok (some a) => answer .ok (valueU16 a) s
    | .ok none => answer .fail 0 s
    | .error f => .fault f

/-- The elapsed-time estimate of R129: `COUNT_MAX` after an overflow, else the sampled timer. -/
def elapsedEstimate (now : Width16) (s : State) : Nat := if s.hallOverflow then s.cfg.countMax else now.toNat

/-- The velocity a successful query returns (R129): recomputed when the estimate is stale, else the cached one. -/
def queriedVelocity (now : Width16) (s : State) : Velocity32 :=
  if elapsedEstimate now s > s.countsElapsed.toNat then
    narrow32 (s.direction.sign * speedFromTicks s.cfg (elapsedEstimate now s))
  else s.velocity

/-- COMPUTE_VELOCITY `now` (R129). It writes no state; the value with FAIL is 0. -/
def execComputeVelocity (now : Width16) (s : State) : Result :=
  operate s fun s =>
    if s.countsElapsed = 0 ∨ s.direction = .unknown then answer .fail 0 s
    else answer .ok (queriedVelocity now s) s

end Sys2Proof.Machine
end

