-- ==== Sys2Proof/Machine/Commutator.lean ====
section
/-! DEFINITION. The six-step commutator (spec/42_commutator.md R140 to R151). -/

namespace Sys2Proof.Machine

/-- SIGNAL_CHANGE (R141). -/
def execSignalChange (s : State) : Result := operate s fun s => answer .ok 0 (postComm s)

/-- WRITE_AMPLITUDE `value` (R142). Out of range it takes the fatal halt; it posts no signal. -/
def execWriteAmplitude (value : Width16Diff) (s : State) : Result :=
  operate s fun s =>
    if absOf (s16 value) > s.cfg.maxAmp then raiseAmplitudePrecondition value s
    else answer .ok 0 (setSemiAmplitude value s)

/-- GET_MAX_AMPLITUDE (R143). -/
def execGetMaxAmplitude (s : State) : Result :=
  operate s fun s => answer .ok (valueS16 (narrow16 s.cfg.maxAmp)) s

/-- SET_ENABLE `en` (R147). It posts no signal. -/
def execSetEnable (en : Bool) (s : State) : Result := operate s fun s => answer .ok 0 (setEnabled en s)

/-- `Bucket(angle)` (R144): offset by 30 degrees with wrap, fold at 180, then compare with 60 and 120. -/
def bucket (angle : Angle16) : Bucket × Bool :=
  let a := (angleAdd angle (BitVec.ofNat 16 offset30)).toNat
  let swap := decide (t180 ≤ a)
  let f := if swap then a - t180 else a
  (if f < t60 then .zero else if f < t120 then .one else .two, swap)

/-- All three phases high-impedance with width 0: coast (R146, R220). -/
def coastPattern : PerPhase Channel := PerPhase.const { width := 0, enabled := false }

/-- All three phases enabled with width 0: brake (R12, R146). -/
def brakePattern : PerPhase Channel := PerPhase.const { width := 0, enabled := true }

/-- The channel value for a role (R146). -/
def roleChannel (pos neg half : Int) : Role → Channel
  | .pos => { width := narrow16 pos, enabled := true }
  | .neg => { width := narrow16 neg, enabled := true }
  | .float => { width := narrow16 half, enabled := false }

/-- The driven pattern (R146): widths `half ± amplitude`, swapped in the upper half-circle, by the roles of the
bucket's row of `COMM_TABLE`. -/
def drivenPattern (cfg : Config) (amplitude : Int) (angle : Angle16) : PerPhase Channel :=
  let half : Int := cfg.maxAmp
  let bs := bucket angle
  let roles := cfg.commTable.get bs.1
  if bs.2 then roles.map (roleChannel (half - amplitude) (half + amplitude) half)
  else roles.map (roleChannel (half + amplitude) (half - amplitude) half)

/-- What one COMM_STEP commits (R146): no angle, then the enable and fault gate, then the brake, then the drive. -/
def commPattern (s : State) : Option Angle16 → PerPhase Channel
  | none => coastPattern
  | some angle =>
    if !s.enabled || s.drvFault then coastPattern
    else if s.semiAmplitude = 0 then brakePattern
    else drivenPattern s.cfg (s16 s.semiAmplitude) angle

/-- The angle fault is logged in every step that finds it (R146, R201). -/
def logAngle (angle : Option Angle16) (s : State) : State :=
  match angle with
  | none => emit .angleFault s
  | some _ => s

/-- The body of one iteration of the commutation sequencer (R146), the signal already consumed. -/
def commUpdate (angle : Option Angle16) (s : State) : State :=
  commit (logAngle angle (stageAll (commPattern s angle) s))

/-- COMM_STEP `live` (R146). With nothing pending it answers FAIL and does nothing. -/
def execCommStep (live : HallCode) (s : State) : Result :=
  operate s fun s =>
    if s.commPending then
      match computeAngle s.cfg s.hallCur live with
      | .ok angle => answer .ok 0 (commUpdate angle (consumeComm s))
      | .error f => .fault f
    else answer .fail 0 s

end Sys2Proof.Machine
end

