-- ==== Sys2Proof/Machine/Inverter.lean ====
section
/-! DEFINITION. The three-phase output synchronizer (spec/44_inverter.md R180 to R187). -/

namespace Sys2Proof.Machine

/-- GET_PERIOD (R181). -/
def execGetPeriod (s : State) : Result :=
  operate s fun s => answer .ok (valueU16 (BitVec.ofNat 16 s.cfg.pwmPeriod)) s

/-- WRITE_CHANNEL `phase, width, enabled` (R182). The width is not checked against the period (D26, U6). -/
def execWriteChannel (phase : Phase) (width : Width16) (enabled : Bool) (s : State) : Result :=
  operate s fun s => answer .ok 0 (stage phase { width := width, enabled := enabled } s)

/-- SYNC_MODES (R183). -/
def execSyncModes (s : State) : Result := operate s fun s => answer .ok 0 (commit s)

end Sys2Proof.Machine
end

