-- ==== Sys2Proof/Machine/Supervisor.lean ====
section
/-! DEFINITION. The power-stage fault gate (spec/45_supervisor.md R190 to R195). -/

namespace Sys2Proof.Machine

/-- FAULT_POLL `fault` (R191). -/
def execFaultPoll (fault : Bool) (s : State) : Result :=
  operate s fun s => answer .ok 0 (postComm (setDrvFault fault s))

end Sys2Proof.Machine
end

