-- ==== Sys2Proof/Machine/Throttle.lean ====
section
/-! DEFINITION. The servo-pulse decoder and slew limiter (spec/43_throttle.md R160 to R169). -/

namespace Sys2Proof.Machine

/-- SERVO_WIDTH `width` (R161). -/
def execServoWidth (width : Width16) (s : State) : Result :=
  operate s fun s => answer .ok 0 (setServoWidth width s)

/-- The range test of R164, in unbounded integers (the lower bound may be negative). -/
def widthAccepted (cfg : Config) (width : Width16) : Bool :=
  decide ((cfg.servoLow : Int) - cfg.servoMargin ≤ u16 width) &&
  decide (u16 width ≤ (cfg.servoHigh : Int) + cfg.servoMargin)

/-- The mapped amplitude of an accepted pulse before slew limiting (R164). -/
def throttleTarget (cfg : Config) (width : Width16) : Int :=
  mapRange cfg.servoLow cfg.servoHigh (clamp (u16 width) cfg.servoLow cfg.servoHigh)
    (-(cfg.maxAmp : Int)) cfg.maxAmp cfg.servoDeadband

/-- The slew-limited amplitude of an accepted pulse (R164). -/
def throttleAmplitude (cfg : Config) (last : Width16Diff) (width period : Width16) : Int :=
  slewStep cfg (s16 last) (throttleTarget cfg width) period.toNat

/-- `ThrottleInvalid()` (R165): `semi_amplitude` and the overflow counter are not written. -/
def throttleInvalid (s : State) : State := postComm { s with lastAmplitude := 0, enabled := false }

/-- The valid branch of `ThrottleUpdate` (R164). -/
def throttleValid (width period : Width16) (s : State) : State :=
  postComm
    { s with
      servoOvfCount := 0
      lastAmplitude := narrow16 (throttleAmplitude s.cfg s.lastAmplitude width period)
      semiAmplitude := narrow16 (throttleAmplitude s.cfg s.lastAmplitude width period)
      enabled := true }

/-- `ThrottleUpdate(width, period, valid)` (R164). -/
def throttleUpdate (width period : Width16) (valid : Bool) (s : State) : State :=
  if valid && widthAccepted s.cfg width then throttleValid width period s else throttleInvalid s

/-- SERVO_PERIOD `period, valid` (R162). -/
def execServoPeriod (period : Width16) (valid : Bool) (s : State) : Result :=
  operate s fun s => answer .ok 0 (throttleUpdate s.servoWidth period valid (setServoPeriod period s))

/-- The overflow watchdog (R163): count, saturating, and at the limit take the invalid branch. -/
def servoOverflow (s : State) : State :=
  let n := satInc8 s.servoOvfCount
  let s1 := setServoOvfCount n s
  if s.cfg.servoOvfLimit ≤ n.toNat then throttleInvalid s1 else s1

/-- SERVO_OVF (R163). -/
def execServoOvf (s : State) : Result := operate s fun s => answer .ok 0 (servoOverflow s)

end Sys2Proof.Machine
end

