-- ==== Sys2Proof/Machine/Dispatch.lean ====
section
/-! DEFINITION. One arm per operation, each one call of its meaning. -/

namespace Sys2Proof.Machine

def exec (i : Instr) (s : State) : Host.Outcome State Fault Refusal :=
  match i with
  | .hallEdge code ticks => Sys2Proof.Machine.execHallEdge code ticks s
  | .hallOvf => Sys2Proof.Machine.execHallOvf s
  | .rotorStep => Sys2Proof.Machine.execRotorStep s
  | .computeAngle live => Sys2Proof.Machine.execComputeAngle live s
  | .computeVelocity now => Sys2Proof.Machine.execComputeVelocity now s
  | .signalChange => Sys2Proof.Machine.execSignalChange s
  | .writeAmplitude value => Sys2Proof.Machine.execWriteAmplitude value s
  | .getMaxAmplitude => Sys2Proof.Machine.execGetMaxAmplitude s
  | .commStep live => Sys2Proof.Machine.execCommStep live s
  | .setEnable en => Sys2Proof.Machine.execSetEnable en s
  | .servoWidth width => Sys2Proof.Machine.execServoWidth width s
  | .servoPeriod period valid => Sys2Proof.Machine.execServoPeriod period valid s
  | .servoOvf => Sys2Proof.Machine.execServoOvf s
  | .getPeriod => Sys2Proof.Machine.execGetPeriod s
  | .writeChannel phase width enabled => Sys2Proof.Machine.execWriteChannel phase width enabled s
  | .syncModes => Sys2Proof.Machine.execSyncModes s
  | .faultPoll fault => Sys2Proof.Machine.execFaultPoll fault s

end Sys2Proof.Machine
end

