-- ==== Sys2Proof/Machine/Issue.lean ====
section
/-! DEFINITION. How a command word is taken from the `cmd` port and acted on (spec/30_encoding.md R85, R91), and what a
presented `reset` does (spec/70_reset_and_hazards.md R230). `Step.lean` only chooses between these. -/

namespace Sys2Proof.Machine

/-- Take the presented input off the front, leaving `rest` to come. -/
def takeInput (rest : List PortInput) (s : State) : State := { s with inputs := rest }

/-- Accept a command word (R68): it is taken off the inputs and recorded (R222). -/
def acceptWord (w : Word) (rest : List PortInput) (s : State) : State :=
  { takeInput rest s with commands := s.commands ++ [w] }

/-- An illegal word is answered ILLEGAL and changes nothing; while `halted` it is answered HALTED (R85). -/
def answerIllegal (s : State) : Result := operate s (answer .illegal 0)

/-- The decoding procedure (R91). -/
def runWord (w : Word) (s : State) : Result :=
  if s.halted then answer .halted 0 s
  else
    match decode w with
    | .ok i => exec i s
    | .error _ => answerIllegal s

/-- One presented input: a command word is accepted and run; an asserted `reset` resets the block, and a word presented
meanwhile is neither answered nor effective (R230). -/
def runInput (x : PortInput) (rest : List PortInput) (s : State) : Result :=
  match x with
  | .command w => runWord w (acceptWord w rest s)
  | .reset _ => .next (resetBlock (takeInput rest s))

/-- Put a word where the next step takes its command from: at the front of what is presented. -/
def presentNext (w : Word) (s : State) : State := { s with inputs := .command w :: s.inputs }

/-- Present a whole sequence of command words, before whatever is still to come (R222, R249). -/
def presentWords (ws : List Word) (s : State) : State := { s with inputs := ws.map .command ++ s.inputs }

end Sys2Proof.Machine
end

