-- ==== Sys2Proof/Machine/Step.lean ====
section
/-! DEFINITION. One step: the next thing the environment presents at the ports, in the order of arrival
(spec/20_memory.md R64, R68). The block fetches nothing (R43); with nothing presented it stays as it is (R219, R246). -/

namespace Sys2Proof.Machine

/-- One step. An ill-formed configuration is refused before anything else (R7). With nothing presented the block stays
as it is: DESIGN CHOICE, log entry 2. -/
def step (s : State) : Host.Outcome State Fault Refusal :=
  if s.cfg.wf then
    match s.inputs with
    | [] => .next s
    | x :: rest => runInput x rest s
  else .refused .illFormedConfig

/-- The machine with the instruction word of value `w` (bits from `nbits` up are 0) presented next at `cmd`. -/
def State.withFetchWord (s : State) (nbits w : Nat) : State := presentNext (BitVec.ofNat 32 (w % 2 ^ nbits)) s

end Sys2Proof.Machine
end

