-- ==== Sys2Proof/Machine/Agents.lean ====
section
/-! DEFINITION. Which agent issues an operation (spec/60_exceptions.md R214, spec/30_encoding.md R84) and which of the
eight error conditions of R200 an operation meets (R201 to R208). Both are readings of the operations; no operation
depends on them (R214: "no operation is refused because of who issues it"). -/

namespace Sys2Proof.Machine

/-- The execution contexts of R214, as agents. -/
inductive Context where
  | captureSource
  | rotorSequencer
  | commutationSequencer
  | host
deriving DecidableEq, Repr

/-- The agent of an operation (R214). -/
def contextOf : Instr → Context
  | .hallEdge _ _ => .captureSource
  | .hallOvf => .captureSource
  | .rotorStep => .rotorSequencer
  | .computeAngle _ => .host
  | .computeVelocity _ => .host
  | .signalChange => .host
  | .writeAmplitude _ => .host
  | .getMaxAmplitude => .host
  | .commStep _ => .commutationSequencer
  | .setEnable _ => .host
  | .servoWidth _ => .captureSource
  | .servoPeriod _ _ => .captureSource
  | .servoOvf => .captureSource
  | .getPeriod => .host
  | .writeChannel _ _ _ => .host
  | .syncModes => .host
  | .faultPoll _ => .host

/-- The eight error conditions of R200. -/
inductive Condition where
  | hallInvalid
  | velocityUnavailable
  | staleOrOverflow
  | glitch
  | servoSignalLoss
  | amplitudePrecondition
  | driverFault
  | illegalCommand
deriving DecidableEq, Repr

/-- The number of a condition (R200). -/
def conditionNumber : Condition → Nat
  | .hallInvalid => 1
  | .velocityUnavailable => 2
  | .staleOrOverflow => 3
  | .glitch => 4
  | .servoSignalLoss => 5
  | .amplitudePrecondition => 6
  | .driverFault => 7
  | .illegalCommand => 8

/-- The condition an operation meets in a state that is not halted: at most one (R210). -/
def conditionOf (i : Instr) (s : State) : Option Condition :=
  match i with
  | .hallEdge code _ => if code != s.hallCur && s.hallOverflow then some .staleOrOverflow else none
  | .rotorStep =>
    if s.rotorPending && s.countsElapsed != 0 && classifyDirection s.cfg s.hallPrev s.hallCur == .unknown then
      some .glitch
    else none
  | .computeAngle live => if validCode s.hallCur || validCode live then none else some .hallInvalid
  | .computeVelocity now =>
    if s.countsElapsed == 0 || s.direction == .unknown then some .velocityUnavailable
    else if s.hallOverflow || decide (elapsedEstimate now s > s.countsElapsed.toNat) then some .staleOrOverflow
    else none
  | .writeAmplitude value =>
    if absOf (s16 value) > s.cfg.maxAmp then some .amplitudePrecondition else none
  | .commStep live =>
    if s.commPending && !validCode s.hallCur && !validCode live then some .hallInvalid else none
  | .servoPeriod _ valid => if valid && widthAccepted s.cfg s.servoWidth then none else some .servoSignalLoss
  | .servoOvf => if s.cfg.servoOvfLimit ≤ (satInc8 s.servoOvfCount).toNat then some .servoSignalLoss else none
  | .faultPoll fault => if fault then some .driverFault else none
  | .hallOvf | .signalChange | .getMaxAmplitude | .setEnable _ | .servoWidth _ | .getPeriod | .writeChannel _ _ _
  | .syncModes => none

/-- The condition a command word meets: an illegal word is condition 8 (R208); HALTED takes precedence over every
condition (R210). -/
def wordCondition (w : Word) (s : State) : Option Condition :=
  if s.halted then none
  else
    match decode w with
    | .ok i => conditionOf i s
    | .error _ => some .illegalCommand

end Sys2Proof.Machine
end

