-- ==== Sys2Proof/Machine/Assembly.lean ====
section
/-! DEFINITION. The assembly syntax of spec/30_encoding.md R89 (a printer and a reader of one line) and the
pseudo-operations of R90. Lines are lists of characters. What R89 leaves open (spaces, the case of hexadecimal digits)
is in log entry 20. -/

namespace Sys2Proof.Machine

/-- The mnemonic of an operation (R83). -/
def mnemonicOf : Instr → String
  | .hallEdge _ _ => "HALL_EDGE"
  | .hallOvf => "HALL_OVF"
  | .rotorStep => "ROTOR_STEP"
  | .computeAngle _ => "COMPUTE_ANGLE"
  | .computeVelocity _ => "COMPUTE_VELOCITY"
  | .signalChange => "SIGNAL_CHANGE"
  | .writeAmplitude _ => "WRITE_AMPLITUDE"
  | .getMaxAmplitude => "GET_MAX_AMPLITUDE"
  | .commStep _ => "COMM_STEP"
  | .setEnable _ => "SET_ENABLE"
  | .servoWidth _ => "SERVO_WIDTH"
  | .servoPeriod _ _ => "SERVO_PERIOD"
  | .servoOvf => "SERVO_OVF"
  | .getPeriod => "GET_PERIOD"
  | .writeChannel _ _ _ => "WRITE_CHANNEL"
  | .syncModes => "SYNC_MODES"
  | .faultPoll _ => "FAULT_POLL"

/-- The letter of a phase (R89). -/
def phaseLetter : Phase → String
  | .A => "A"
  | .B => "B"
  | .C => "C"

/-- A one-bit operand in assembly. -/
def bitText (b : Bool) : String := if b then "1" else "0"

/-- The operands of an operation in the order of R89, numbers in decimal. -/
def operandTexts : Instr → List String
  | .hallEdge code ticks => [toString code.toNat, toString ticks.toNat]
  | .computeAngle live => [toString live.toNat]
  | .computeVelocity now => [toString now.toNat]
  | .writeAmplitude value => [toString value.toInt]
  | .commStep live => [toString live.toNat]
  | .setEnable en => [bitText en]
  | .servoWidth width => [toString width.toNat]
  | .servoPeriod period valid => [toString period.toNat, bitText valid]
  | .writeChannel phase width enabled => [phaseLetter phase, toString width.toNat, bitText enabled]
  | .faultPoll fault => [bitText fault]
  | .hallOvf | .rotorStep | .signalChange | .getMaxAmplitude | .servoOvf | .getPeriod | .syncModes => []

/-- One line of assembly (R89). -/
def printInstr (i : Instr) : String :=
  match operandTexts i with
  | [] => mnemonicOf i
  | ops => mnemonicOf i ++ " " ++ String.intercalate ", " ops

/-- The value of a digit in bases up to 16. -/
def digitValue (ch : Char) : Option Nat :=
  if '0' ≤ ch ∧ ch ≤ '9' then some (ch.toNat - '0'.toNat)
  else if 'a' ≤ ch ∧ ch ≤ 'f' then some (ch.toNat - 'a'.toNat + 10)
  else if 'A' ≤ ch ∧ ch ≤ 'F' then some (ch.toNat - 'A'.toNat + 10)
  else none

/-- Digits in a base, after a value already read. -/
def readDigits (base acc : Nat) : List Char → Option Nat
  | [] => some acc
  | ch :: rest =>
    match digitValue ch with
    | some d => if d < base then readDigits base (acc * base + d) rest else none
    | none => none

/-- One or more digits in a base. -/
def readBase (base : Nat) (cs : List Char) : Option Nat := if cs.isEmpty then none else readDigits base 0 cs

/-- A number: hexadecimal with 0x, binary with 0b where that is allowed, decimal otherwise (R89). -/
def readNumber (binary : Bool) : List Char → Option Nat
  | '0' :: 'x' :: cs => readBase 16 cs
  | '0' :: 'b' :: cs => if binary then readBase 2 cs else none
  | cs => readBase 10 cs

/-- A number that fits `n` bits. -/
def readField (n : Nat) (binary : Bool) (cs : List Char) : Option (BitVec n) :=
  match readNumber binary cs with
  | some v => if v < 2 ^ n then some (BitVec.ofNat n v) else none
  | none => none

/-- A Hall code or live code; binary is allowed (R89). -/
def readCode (cs : List Char) : Option HallCode := readField 3 true cs

/-- An unsigned 16-bit operand. -/
def readU16 (cs : List Char) : Option Width16 := readField 16 false cs

/-- A signed 16-bit operand, with an optional minus sign (R89). -/
def readS16 : List Char → Option Width16Diff
  | '-' :: cs =>
    match readNumber false cs with
    | some v => if v ≤ 32768 then some (BitVec.ofInt 16 (-(v : Int))) else none
    | none => none
  | cs =>
    match readNumber false cs with
    | some v => if v < 32768 then some (BitVec.ofNat 16 v) else none
    | none => none

/-- A one-bit operand. -/
def readBit (cs : List Char) : Option Bool :=
  match readField 1 false cs with
  | some b => some (b == 1)
  | none => none

/-- A phase letter (R89). -/
def readPhase : List Char → Option Phase
  | ['A'] => some .A
  | ['B'] => some .B
  | ['C'] => some .C
  | _ => none

/-- The line without its comment: a `;` starts one (R89). -/
def dropComment (cs : List Char) : List Char := cs.takeWhile (· != ';')

/-- Spaces taken off both ends. -/
def trim (cs : List Char) : List Char := ((cs.dropWhile (· == ' ')).reverse.dropWhile (· == ' ')).reverse

/-- The operands between commas, each trimmed. -/
def splitOperands : List Char → List (List Char)
  | [] => [[]]
  | ',' :: rest => [] :: splitOperands rest
  | ch :: rest =>
    match splitOperands rest with
    | [] => [[ch]]
    | o :: os => (ch :: o) :: os

/-- The operation a mnemonic and its operands spell (R89). -/
def assemble (mnemonic : String) (ops : List (List Char)) : Option Instr :=
  match mnemonic, ops with
  | "HALL_EDGE", [c, t] => (readCode c).bind fun c => (readU16 t).map fun t => .hallEdge c t
  | "HALL_OVF", [] => some .hallOvf
  | "ROTOR_STEP", [] => some .rotorStep
  | "COMPUTE_ANGLE", [l] => (readCode l).map .computeAngle
  | "COMPUTE_VELOCITY", [n] => (readU16 n).map .computeVelocity
  | "SIGNAL_CHANGE", [] => some .signalChange
  | "WRITE_AMPLITUDE", [v] => (readS16 v).map .writeAmplitude
  | "GET_MAX_AMPLITUDE", [] => some .getMaxAmplitude
  | "COMM_STEP", [l] => (readCode l).map .commStep
  | "SET_ENABLE", [e] => (readBit e).map .setEnable
  | "SERVO_WIDTH", [w] => (readU16 w).map .servoWidth
  | "SERVO_PERIOD", [p, v] => (readU16 p).bind fun p => (readBit v).map fun v => .servoPeriod p v
  | "SERVO_OVF", [] => some .servoOvf
  | "GET_PERIOD", [] => some .getPeriod
  | "WRITE_CHANNEL", [p, w, e] =>
    (readPhase p).bind fun p => (readU16 w).bind fun w => (readBit e).map fun e => .writeChannel p w e
  | "SYNC_MODES", [] => some .syncModes
  | "FAULT_POLL", [f] => (readBit f).map .faultPoll
  | _, _ => none

/-- Read one line of assembly (R89). -/
def readLine (line : List Char) : Option Instr :=
  let cs := trim (dropComment line)
  let mnemonic := cs.takeWhile (· != ' ')
  let tail := trim (cs.dropWhile (· != ' '))
  assemble (String.ofList mnemonic) (if tail.isEmpty then [] else (splitOperands tail).map trim)

/-- The pseudo-operations of R90. -/
inductive Pseudo where
  /-- SERVO_PULSE `w, p` -/
  | servoPulse (w p : Width16)
  /-- SERVO_LOST -/
  | servoLost
  /-- SET_AMPLITUDE `v` -/
  | setAmplitude (v : Width16Diff)
  /-- SETTLE `l` -/
  | settle (l : HallCode)
  /-- COAST -/
  | coast
deriving DecidableEq, Repr

/-- The expansion of a pseudo-operation (R90). It is not atomic: other operations may stand between. -/
def expand : Pseudo → List Instr
  | .servoPulse w p => [.servoWidth w, .servoPeriod p true]
  | .servoLost => [.servoPeriod 0 false]
  | .setAmplitude v => [.writeAmplitude v, .signalChange]
  | .settle l => [.rotorStep, .commStep l]
  | .coast => [.writeChannel .A 0 false, .writeChannel .B 0 false, .writeChannel .C 0 false, .syncModes]

end Sys2Proof.Machine
end

