-- ==== Sys2Proof/Safety.lean ====
section
/-! DEFINITION. The terms claims are made in: runs, the end of a run (spec/70_reset_and_hazards.md R249), the absence of
faults (spec/60_exceptions.md R222), the output patterns (spec/42_commutator.md R149), the invariants
(spec/10_state.md R46), scheduling (spec/20_memory.md R73), host duties (R244, R245, R248) and launch premises
(R250). -/

namespace Sys2Proof.Machine

/-- Go on from a next state; stop at a fault or a refusal. -/
def andThen (r : Result) (f : State → Result) : Result :=
  match r with
  | .next s => f s
  | .fault e => .fault e
  | .refused e => .refused e

/-- `k` steps, stopping at the first fault or refusal. -/
def runSteps : Nat → State → Result
  | 0, s => .next s
  | k + 1, s => andThen (step s) (runSteps k)

/-- The states a machine with configuration `c` can be in: reset with any inputs to come (R74: every serialisation of
what the agents request), then any number of steps. -/
inductive Reachable (c : Config) : State → Prop where
  | start (ins : List PortInput) : Reachable c { State.reset with cfg := c, inputs := ins }
  | next {s t : State} (hs : Reachable c s) (h : step s = .next t) : Reachable c t

/-- Quiescent (R249): both sequencers wait and the block is not halted. -/
def State.quiescent (s : State) : Bool := !s.rotorPending && !s.commPending && !s.halted

/-- "No fault occurred" (R222): no `EV_HALT` in the log, `halted = 0`, and no ILLEGAL response. -/
def State.noFault (s : State) : Bool :=
  !s.halted && s.log.all (fun e => match e with | .halt _ => false | .glitch _ _ | .angleFault => true) &&
  s.responses.all (fun r => r.status != .illegal)

/-- Every phase disabled. -/
def allDisabled (t : PerPhase Channel) : Bool := !t.a.enabled && !t.b.enabled && !t.c.enabled

/-- The driven pattern of R149 for half-period `half` and amplitude `s`: one phase `(half, 0)` and the two others
enabled, one with width `half + s` and one with `half - s`. -/
def Driven (half s : Int) (t : PerPhase Channel) : Prop :=
  ∃ f p n : Phase, f ≠ p ∧ f ≠ n ∧ p ≠ n ∧
    ((t.get f).width.toNat : Int) = half ∧ (t.get f).enabled = false ∧
    ((t.get p).width.toNat : Int) = half + s ∧ (t.get p).enabled = true ∧
    ((t.get n).width.toNat : Int) = half - s ∧ (t.get n).enabled = true

/-- The output triple after reset (R47). -/
def resetTriple : PerPhase Channel := PerPhase.const channelOff

/-- The invariants of R46, with the well-formed configuration they need, the answer to each command (R87) and the
origin of the outputs (R187). -/
structure State.Inv (s : State) : Prop where
  /-- the configuration is well-formed (R7) -/
  config : s.cfg.wf = true
  /-- R46(a) -/
  semiBound : absOf (s16 s.semiAmplitude) ≤ s.cfg.maxAmp
  /-- R46(b) -/
  lastBound : absOf (s16 s.lastAmplitude) ≤ s.cfg.maxAmp
  /-- R46(c): velocity and direction agree -/
  speed : (s.direction = .unknown ∧ s.velocity = 0) ∨
    (s.direction ≠ .unknown ∧
      ∃ t : Nat, 1 ≤ t ∧ t ≤ 65535 ∧ s.velocity.toInt = s.direction.sign * (speedFromTicks s.cfg t : Int))
  /-- R46(d) -/
  hallPair : s.hallCur ≠ s.hallPrev ∨ (s.hallCur = 0 ∧ s.hallPrev = 0)
  /-- R46(e), R187: the outputs are the last committed triple, or the reset triple -/
  outputs : s.active = s.commits.getLastD resetTriple
  /-- R87: exactly one response to each command -/
  answered : s.responses.length = s.commands.length

/-- When an operation executes by its own rule: the configuration is well-formed (R7) and the block is not halted
(R211). -/
abbrev State.Running (s : State) : Prop := s.cfg.wf = true ∧ s.halted = false

/-- The state after an operation whose only effect is its response. -/
def answered (status : Status) (value : Word) (s : State) : State :=
  { s with responses := s.responses ++ [{ status := status, value := value }] }

/-- The code an angle is computed from: the cached one if valid, else the live one (R128). -/
def angleCode (cached live : HallCode) : HallCode := if validCode cached then cached else live

/-- An infinite run in which only the two sequencers issue operations. -/
def SequencerRun (sched : Nat → Instr) (run : Nat → State) : Prop :=
  (∀ n, sched n = .rotorStep ∨ ∃ live, sched n = .commStep live) ∧
  ∀ n, exec (sched n) (run n) = .next (run (n + 1))

/-- Weak fairness (R73): while a pending flag is 1 and the block is not halted, the matching step is eventually
issued. -/
def WeaklyFair (sched : Nat → Instr) (run : Nat → State) : Prop :=
  ∀ n, (run n).halted = false →
    ((run n).rotorPending = true → ∃ m, n ≤ m ∧ sched m = .rotorStep) ∧
    ((run n).commPending = true → ∃ m, n ≤ m ∧ ∃ live, sched m = .commStep live)

/-- Host duty R245(c): the `ticks` of HALL_EDGE is never 0. -/
def ticksNonzero (is : List Instr) : Bool :=
  is.all fun i => match i with
    | .hallEdge _ ticks => ticks != 0
    | _ => true

/-- Host duty R245(d): the codes reported are never repeats, `last` being the code reported before. -/
def codesChange (last : HallCode) : List Instr → Bool
  | [] => true
  | .hallEdge code _ :: is => code != last && codesChange code is
  | _ :: is => codesChange last is

/-- Host duty R245(a): SERVO_WIDTH comes before the SERVO_PERIOD that closes the same pulse. DESIGN CHOICE: a SERVO_PERIOD
with `valid` 0 closes no pulse and needs no SERVO_WIDTH, as in SERVO_LOST (R90). Log entry 27. -/
def widthBeforePeriod (seen : Bool) : List Instr → Bool
  | [] => true
  | .servoWidth _ :: is => widthBeforePeriod true is
  | .servoPeriod _ valid :: is => (seen || !valid) && widthBeforePeriod false is
  | _ :: is => widthBeforePeriod seen is

/-- Host duty R244: every amplitude written is in range. -/
def amplitudesInRange (c : Config) (is : List Instr) : Bool :=
  is.all fun i => match i with
    | .writeAmplitude value => decide (absOf (s16 value) ≤ c.maxAmp)
    | _ => true

/-- Host duties R236 and R237: after an amplitude or enable is written, SIGNAL_CHANGE is issued later. -/
def writeThenSignal : List Instr → Bool
  | [] => true
  | .writeAmplitude _ :: is => is.contains .signalChange && writeThenSignal is
  | .setEnable _ :: is => is.contains .signalChange && writeThenSignal is
  | _ :: is => writeThenSignal is

/-- Host duty R239: the inverter is left to the commutator. -/
def leavesInverter (is : List Instr) : Bool :=
  is.all fun i => match i with
    | .writeChannel _ _ _ | .syncModes => false
    | _ => true

/-- The operation a command word spells, if it is legal. -/
def instrOf (w : Word) : Option Instr :=
  match decode w with
  | .ok i => some i
  | .error _ => none

/-- The operations presented and still to come. A `reset` among them is nobody's duty (R248). -/
def State.presented (s : State) : List Instr :=
  s.inputs.filterMap fun x => match x with
    | .command w => instrOf w
    | .reset _ => none

/-- Whether, after these operations, a SERVO_WIDTH has been delivered whose SERVO_PERIOD is still to come. -/
def widthSeen (is : List Instr) : Bool :=
  is.foldl (fun seen i => match i with
    | .servoWidth _ => true
    | .servoPeriod _ _ => false
    | _ => seen) false

/-- The host duties of R248's last column that can be read off the operations presented. Of the others, R245(b), the
poll's cadence and truth and the truth of `live` and `now` are about the surroundings, which are no data of the block
(log entry 27); the sequencers' duty is `WeaklyFair`. -/
inductive HostDuty where
  /-- servo capture source, R245(a) -/
  | widthBeforePeriod
  /-- Hall capture source, R245(c) -/
  | ticksNonzero
  /-- Hall capture source, R245(d) -/
  | codesChange
  /-- interface client, R236 and R237 -/
  | writeThenSignal
  /-- interface client, R244 -/
  | amplitudesInRange
  /-- interface client, R239 -/
  | leavesInverter
deriving DecidableEq, Repr

/-- The duty holds of all that is presented from this state on. DESIGN CHOICE where R245 and R248 are silent: the first
code reported must differ from `hall_cur`, which is 0 after reset; an asserted `reset` among what is presented divides
nothing, so the code reported next after it must differ from the one before it, and a SERVO_WIDTH or a SIGNAL_CHANGE on
its other side counts; a SERVO_WIDTH among the commands accepted since reset counts too. Log entry 28. -/
def HostDuty.holds (d : HostDuty) (s : State) : Bool :=
  match d with
  | .widthBeforePeriod => Machine.widthBeforePeriod (widthSeen (s.commands.filterMap instrOf)) s.presented
  | .ticksNonzero => Machine.ticksNonzero s.presented
  | .codesChange => Machine.codesChange s.hallCur s.presented
  | .writeThenSignal => Machine.writeThenSignal s.presented
  | .amplitudesInRange => Machine.amplitudesInRange s.cfg s.presented
  | .leavesInverter => Machine.leavesInverter s.presented

/-- The values a claim names for the OPEN tables; `none` where it depends on none. -/
structure OpenTables where
  hallAngle : Option (PerCode (Option Angle16)) := none
  hallNext : Option (PerCode (Option HallCode)) := none
  commTable : Option (PerBucket (PerPhase Role)) := none
deriving DecidableEq, Repr

/-- The configuration has the tables named. -/
def OpenTables.agree (v : OpenTables) (c : Config) : Prop :=
  (∀ t, v.hallAngle = some t → c.hallAngle = t) ∧ (∀ t, v.hallNext = some t → c.hallNext = t) ∧
  ∀ t, v.commTable = some t → c.commTable = t

/-- The launch premises of R250, for the duties and the tables that a claim names. With no duty named they allow every
host behaviour. -/
structure LaunchPremises (duties : List HostDuty) (tables : OpenTables) (s : State) : Prop where
  /-- P1 -/
  config : s.cfg.wf = true
  /-- P2: the reset state, or a reachable state that satisfies the invariants of R46 -/
  start : s = { State.reset with cfg := s.cfg, inputs := s.inputs } ∨ (Reachable s.cfg s ∧ s.Inv)
  /-- P3 -/
  running : s.halted = false
  /-- P4 -/
  hostDuties : ∀ d : HostDuty, d ∈ duties → d.holds s = true
  /-- P5 -/
  openTables : tables.agree s.cfg

/-- Some channel of the triple is enabled. -/
def anyEnabled (t : PerPhase Channel) : Bool := !allDisabled t

/-- The instruction the next step takes, if a command word is presented next and spells one. -/
def State.nextInstr (s : State) : Option Instr :=
  match s.inputs with
  | .command w :: _ => instrOf w
  | .reset _ :: _ => none
  | [] => none

/-- The next step is a ROTOR_STEP that runs: one is presented next, a transition is pending and the block is not halted
(R126). -/
def State.rotorRuns (s : State) : Bool := s.nextInstr == some .rotorStep && s.rotorPending && !s.halted

/-- The next step is an asserted `reset`. -/
def State.resetNext (s : State) : Bool :=
  match s.inputs with
  | .reset _ :: _ => true
  | .command _ :: _ => false
  | [] => false

/-- The instruction enables the commutator in this state (R232(e)): `SET_ENABLE 1`, or a SERVO_PERIOD that is valid and
closes a pulse of an accepted width (R164). -/
def enables (i : Instr) (s : State) : Bool :=
  match i with
  | .setEnable en => en
  | .servoPeriod _ valid => valid && widthAccepted s.cfg s.servoWidth
  | _ => false

/-- The instruction is a host's own staging of an enabled channel (R232(e)). -/
def stagesEnabled (i : Instr) : Bool :=
  match i with
  | .writeChannel _ _ enabled => enabled
  | _ => false

/-- The instruction is a host's own staging of any channel (R186, R187). -/
def stagesChannel (i : Instr) : Bool :=
  match i with
  | .writeChannel _ _ _ => true
  | _ => false

/-- The outputs are off and the gate of COMM_STEP is closed: no staged or active channel is enabled, and the gate driver
is faulty or the commutator disabled (R192, R232(e)). -/
structure State.Closed (s : State) : Prop where
  stagedOff : allDisabled s.staged = true
  activeOff : allDisabled s.active = true
  gate : s.drvFault = true ∨ s.enabled = false

/-- One of the patterns of R149(a) for the period of `c`: coast, brake, or driven by a legal amplitude that is not 0. -/
def CommutatorPattern (c : Config) (t : PerPhase Channel) : Prop :=
  t = coastPattern ∨ t = brakePattern ∨ ∃ a : Int, a ≠ 0 ∧ absOf a ≤ c.maxAmp ∧ Driven c.maxAmp a t

/-- Only the commutator has written the inverter (R187): nothing staged is uncommitted and the outputs are one of its
patterns, with the amplitude bounds of R46(a), (b) that keep them so. -/
structure State.CommutatorOnly (s : State) : Prop where
  config : s.cfg.wf = true
  semiBound : absOf (s16 s.semiAmplitude) ≤ s.cfg.maxAmp
  lastBound : absOf (s16 s.lastAmplitude) ≤ s.cfg.maxAmp
  committed : s.staged = s.active
  pattern : CommutatorPattern s.cfg s.active

/-- Whether the gate was open at the most recent COMM_STEP that ran, after one more step from `s`, when `g` says whether
it was before (R252): a COMM_STEP that runs sets it anew, a reset forgets it, every other step keeps it. -/
def State.gateAfter (s : State) (g : Bool) : Bool :=
  if s.resetNext then false
  else
    match s.nextInstr with
    | some (.commStep live) =>
      if !s.halted && s.commPending then
        s.enabled && !s.drvFault && (validCode s.hallCur || validCode live)
      else g
    | _ => g

end Sys2Proof.Machine
end

