-- ==== Sys2Proof/Certificates/Slice0/Obligations.lean ====
section
/-! DEFINITION. The statements for the provers. Each speaks of `exec`, `step` or a shared function of the machine for
every state and every configuration that meets its hypotheses; a result written as a record update of `s` is also the
frame: every field not named in the update is as it was in `s` (the block has no memory, R60). `inputs`, `commands` and
`commits` are the model's own fields: what is presented, and the records of R222 (log entries 2 and 4). -/

open Sys2Proof Sys2Proof.Machine

/-! ### Encoding -/

/-- The worked encodings of R92, both ways, and its three illegal words. -/
def Obligations.WorkedEncodingsDecode : Prop :=
  (decode 0x100503E8 = .ok (.hallEdge 5 1000) ∧ encode (.hallEdge 5 1000) = 0x100503E8) ∧
  (decode 0x2100FF06 = .ok (.writeAmplitude (BitVec.ofInt 16 (-250))) ∧
    encode (.writeAmplitude (BitVec.ofInt 16 (-250))) = 0x2100FF06) ∧
  (decode 0x31014E20 = .ok (.servoPeriod 20000 true) ∧ encode (.servoPeriod 20000 true) = 0x31014E20) ∧
  (decode 0x410203E8 = .ok (.writeChannel .C 1000 false) ∧ encode (.writeChannel .C 1000 false) = 0x410203E8) ∧
  (decode 0x410504E2 = .ok (.writeChannel .B 1250 true) ∧ encode (.writeChannel .B 1250 true) = 0x410504E2) ∧
  (decode 0x23050000 = .ok (.commStep 0b101) ∧ encode (.commStep 0b101) = 0x23050000) ∧
  (decode 0x50000000 = .ok (.faultPoll false) ∧ encode (.faultPoll false) = 0x50000000) ∧
  decode 0x41030000 = .error .phaseThree ∧ decode 0x11000001 = .error .reservedBitSet ∧
  decode 0x00000000 = .error .unassignedOp

/-- Decoding the word of an instruction gives the instruction back, with every operand at every value. -/
def Obligations.DecodeOfEncodeIsTheInstruction : Prop := ∀ i : Instr, decode (encode i) = .ok i

/-- A word that decodes is the word of the instruction it decodes to: no set bit goes unread. -/
def Obligations.EncodeOfDecodeIsTheWord : Prop := ∀ (w : Word) (i : Instr), decode w = .ok i → encode i = w

/-- The decoder, written from the formats of R81, selects exactly the rows of the match and mask table of R83. -/
def Obligations.DecoderFollowsTheOperationMap : Prop :=
  ∀ (w : Word) (r : OpRow), r ∈ opTable → (r.selects w = true ↔ ∃ i, decode w = .ok i ∧ i.op = r.op)

/-- At most one row of R83 matches a word. -/
def Obligations.AtMostOneRowSelectsAWord : Prop :=
  ∀ (w : Word) (r1 r2 : OpRow), r1 ∈ opTable → r2 ∈ opTable → r1.selects w = true → r2.selects w = true → r1 = r2

/-- A byte-wide transport is little-endian, and what follows a command is left over. -/
def Obligations.ByteTransportIsLittleEndian : Prop :=
  (∀ (i : Instr) (rest : List Byte), decodeBytes (encodeBytes i ++ rest) = .ok (i, rest)) ∧
  ∀ b0 b1 b2 b3 : Byte, (wordOfBytes b0 b1 b2 b3).toNat =
    b0.toNat + 256 * b1.toNat + 65536 * b2.toNat + 16777216 * b3.toNat

/-! ### Running words, halting and reset -/

/-- A word at the front of the inputs that decodes to `i` is accepted, recorded and run: the step is `exec i` at the
state in which the word has been taken. It holds while halted too. -/
def Obligations.StepRunsTheDecodedInstruction : Prop :=
  ∀ (s : State) (w : Word) (rest : List PortInput) (i : Instr),
    s.cfg.wf = true → s.inputs = .command w :: rest → decode w = .ok i →
    step s = exec i { s with inputs := rest, commands := s.commands ++ [w] }

/-- A word that no row of R83 selects is answered ILLEGAL, and nothing else happens. -/
def Obligations.IllegalWordOnlyAnswersIllegal : Prop :=
  ∀ (s : State) (w : Word) (rest : List PortInput),
    s.Running → s.inputs = .command w :: rest → legalWord w = false →
    step s = .next { s with
      inputs := rest
      commands := s.commands ++ [w]
      responses := s.responses ++ [{ status := .illegal, value := 0 }] }

/-- The halt: an out-of-range WRITE_AMPLITUDE sets the latch, logs the value, answers HALTED and writes nothing else;
no other operation halts the block; and a halted block answers HALTED to every word, legal or not, with no change. -/
def Obligations.HaltEntryAndHaltedBlock : Prop :=
  (∀ (s : State) (v : Width16Diff), s.Running → absOf (s16 v) > s.cfg.maxAmp →
    exec (.writeAmplitude v) s = .next { s with
      halted := true
      log := s.log ++ [.halt v]
      responses := s.responses ++ [{ status := .halted, value := 0 }] }) ∧
  (∀ (i : Instr) (s t : State), s.halted = false → exec i s = .next t → t.halted = true →
    ∃ v, i = .writeAmplitude v ∧ absOf (s16 v) > s.cfg.maxAmp) ∧
  (∀ (s : State) (w : Word) (rest : List PortInput),
    s.cfg.wf = true → s.halted = true → s.inputs = .command w :: rest →
    step s = .next { s with
      inputs := rest
      commands := s.commands ++ [w]
      responses := s.responses ++ [{ status := .halted, value := 0 }] })

/-- Asserting `reset` brings every element to its reset value whatever the block was doing, answers nothing and emits
nothing even if a word is presented meanwhile, and is the only way to leave `halted = 1`. Of the model's own records
`commands` and `commits` it says nothing. -/
def Obligations.ResetInputIsTheOnlyWayOutOfHalt : Prop :=
  (∀ (s : State) (p : Option Word) (rest : List PortInput), s.cfg.wf = true → s.inputs = .reset p :: rest →
    ∃ t, step s = .next t ∧
      t = { State.reset with cfg := s.cfg, inputs := rest, commands := t.commands, commits := t.commits }) ∧
  (∀ (s t : State) (p : Option Word) (rest : List PortInput), s.inputs = .reset p :: rest → step s = .next t →
    (∀ q : Phase, t.pwmEnable q = false ∧ t.pwmWidth q = 0) ∧ t.haltedPin = false ∧ t.resp = none ∧
      t.logPort = []) ∧
  (∀ s t : State, s.halted = true → step s = .next t → t.halted = false →
    ∃ p rest, s.inputs = .reset p :: rest)

/-- The reset table of R47, element by element. -/
def Obligations.ResetStateIsTheTableOfR47 : Prop :=
  State.reset.hallCur = 0 ∧ State.reset.hallPrev = 0 ∧ State.reset.countsElapsed = 0 ∧
  State.reset.hallOverflow = false ∧ State.reset.velocity = 0 ∧ State.reset.direction.sign = 0 ∧
  State.reset.rotorPending = false ∧ State.reset.semiAmplitude = 0 ∧ State.reset.enabled = false ∧
  State.reset.drvFault = true ∧ State.reset.commPending = true ∧ State.reset.halted = false ∧
  State.reset.servoWidth = 0 ∧ State.reset.servoPeriod = 0 ∧ State.reset.servoOvfCount = 0 ∧
  State.reset.lastAmplitude = 0 ∧
  (∀ p : Phase, State.reset.staged.get p = { width := 0, enabled := false } ∧
    State.reset.active.get p = { width := 0, enabled := false }) ∧
  State.reset.logPort = [] ∧ State.reset.resp = none

/-- A configuration is accepted exactly when (a) to (j) of R7 hold, and with an ill-formed one every operation and
every step is refused. That the refusal is made at every operation and step is the model's reading of "a model refuses
it" (log entry 6). -/
def Obligations.IllFormedConfigurationIsRefused : Prop :=
  (∀ c : Config, c.wf = true ↔
    (2 ≤ c.pwmPeriod ∧ c.pwmPeriod ≤ 65535) ∧
    (6 ≤ c.hallCaptureFreqHz ∧ c.hallCaptureFreqHz ≤ 196607) ∧
    (1 ≤ c.countMax ∧ c.countMax ≤ 65535) ∧
    1000 ≤ c.servoCaptureFreqHz ∧
    (c.servoLow < c.servoHigh ∧
      (c.servoDeadband : Int) < average c.servoLow c.servoHigh - c.servoLow ∧
      (c.servoDeadband : Int) < c.servoHigh - average c.servoLow c.servoHigh) ∧
    c.servoHigh + c.servoMargin ≤ 65535 ∧
    c.slewLimit ≤ 65535 ∧
    (1 ≤ c.servoOvfLimit ∧ c.servoOvfLimit ≤ 255) ∧
    ((∀ k : HallCode, c.hallAngleAt k = none ↔ (k = 0 ∨ k = 7)) ∧
      ∀ j k : HallCode, validCode j = true → validCode k = true → c.hallAngleAt j = c.hallAngleAt k → j = k) ∧
    (∀ j k : HallCode, validCode j = true →
      (validCode k = true ↔
        ∃ n, 1 ≤ n ∧ n ≤ 6 ∧ (fun o => Option.bind o c.hallNextAt)^[n] (some j) = some k)) ∧
    (∀ (b : Bucket) (r : Role), ∃ p : Phase, (c.commTable.get b).get p = r ∧
      ∀ q : Phase, (c.commTable.get b).get q = r → q = p)) ∧
  (∀ (s : State) (i : Instr), s.cfg.wf = false →
    step s = .refused .illFormedConfig ∧ exec i s = .refused .illFormedConfig)

/-! ### Rotor -/

/-- HALL_EDGE (R124): a repeat of the current code changes nothing; a different code, valid or not, is stored, with the
tick count saturated after an overflow, the overflow flag cleared and both signals posted. -/
def Obligations.HallEdgeResult : Prop :=
  ∀ (s : State) (code : HallCode) (ticks : Width16), s.Running →
    (code = s.hallCur → exec (.hallEdge code ticks) s = .next (answered .ok 0 s)) ∧
    (code ≠ s.hallCur → exec (.hallEdge code ticks) s = .next { answered .ok 0 s with
      hallPrev := s.hallCur
      hallCur := code
      countsElapsed := if s.hallOverflow = true then BitVec.ofNat 16 s.cfg.countMax else ticks
      hallOverflow := false
      rotorPending := true
      commPending := true })

/-- HALL_OVF (R125): the overflow flag is set and nothing is posted. -/
def Obligations.HallOvfResult : Prop :=
  ∀ s : State, s.Running → exec .hallOvf s = .next { answered .ok 0 s with hallOverflow := true }

/-- ROTOR_STEP (R126): FAIL and no effect with nothing pending; zeros for a zero tick count; zeros and `EV_GLITCH` for a
transition that cannot be classified; otherwise the signed speed, exactly `direction * floor(HALL_K / ticks)`. -/
def Obligations.RotorStepResult : Prop :=
  ∀ s : State, s.Running →
    (s.rotorPending = false → exec .rotorStep s = .next (answered .fail 0 s)) ∧
    (s.rotorPending = true → s.countsElapsed = 0 → exec .rotorStep s = .next { answered .ok 0 s with
      rotorPending := false, velocity := 0, direction := .unknown }) ∧
    (s.rotorPending = true → s.countsElapsed ≠ 0 →
      classifyDirection s.cfg s.hallPrev s.hallCur = .unknown → exec .rotorStep s = .next { answered .ok 0 s with
        rotorPending := false, velocity := 0, direction := .unknown
        log := s.log ++ [.glitch s.hallPrev s.hallCur] }) ∧
    (∀ d : Direction, d ≠ .unknown → s.rotorPending = true → s.countsElapsed ≠ 0 →
      classifyDirection s.cfg s.hallPrev s.hallCur = d →
      ∃ v : Velocity32, v.toInt = d.sign * ((s.cfg.hallK / s.countsElapsed.toNat : Nat) : Int) ∧
        exec .rotorStep s = .next { answered .ok 0 s with rotorPending := false, velocity := v, direction := d })

/-- `ClassifyDirection` (R127): forward exactly when the new code is the successor of the old, reverse exactly when the
old is the successor of the new, unknown for every other pair, in every well-formed table. -/
def Obligations.ClassifyDirectionIsTheNeighbourTest : Prop :=
  ∀ (c : Config) (p q : HallCode), c.wf = true →
    (classifyDirection c p q = .forward ↔
      validCode p = true ∧ validCode q = true ∧ c.hallNextAt p = some q) ∧
    (classifyDirection c p q = .reverse ↔
      validCode p = true ∧ validCode q = true ∧ c.hallNextAt q = some p) ∧
    (classifyDirection c p q = .unknown ↔
      ¬ (validCode p = true ∧ validCode q = true ∧ (c.hallNextAt p = some q ∨ c.hallNextAt q = some p)))

/-- With the DEFAULT `HALL_NEXT` (general knowledge by the spec's own mark, D6; log entry 8) `ClassifyDirection` is
forward for six pairs, reverse for their six mirror images and unknown for the other 52. -/
def Obligations.ClassifyDirectionOfTheDefaultTable : Prop :=
  ∀ (c : Config) (p q : HallCode), c.hallNext = Config.defaultHallNext →
    (classifyDirection c p q = .forward ↔
      (p, q) ∈ ([(1, 5), (5, 4), (4, 6), (6, 2), (2, 3), (3, 1)] : List (HallCode × HallCode))) ∧
    (classifyDirection c p q = .reverse ↔
      (p, q) ∈ ([(5, 1), (4, 5), (6, 4), (2, 6), (3, 2), (1, 3)] : List (HallCode × HallCode)))

/-- COMPUTE_ANGLE (R128): the table angle of the cached code if that is valid, else of the live code if that is valid,
else FAIL with value 0; no state is written but the response. -/
def Obligations.ComputeAngleResult : Prop :=
  ∀ (s : State) (live : HallCode), s.Running →
    (validCode s.hallCur = true → ∃ a, s.cfg.hallAngleAt s.hallCur = some a ∧
      exec (.computeAngle live) s = .next (answered .ok (a.setWidth 32) s)) ∧
    (validCode s.hallCur = false → validCode live = true → ∃ a, s.cfg.hallAngleAt live = some a ∧
      exec (.computeAngle live) s = .next (answered .ok (a.setWidth 32) s)) ∧
    (validCode s.hallCur = false → validCode live = false →
      exec (.computeAngle live) s = .next (answered .fail 0 s))

/-- COMPUTE_VELOCITY (R129): FAIL with no edge or no direction; the cached velocity while the elapsed-time estimate does
not exceed the cached interval; otherwise exactly `direction * floor(HALL_K / estimate)`. -/
def Obligations.ComputeVelocityResult : Prop :=
  ∀ (s : State) (now : Width16), s.Running →
    (s.countsElapsed = 0 ∨ s.direction = .unknown →
      exec (.computeVelocity now) s = .next (answered .fail 0 s)) ∧
    (∀ t : Nat, t = (if s.hallOverflow = true then s.cfg.countMax else now.toNat) →
      s.countsElapsed ≠ 0 → s.direction ≠ .unknown →
      (t ≤ s.countsElapsed.toNat → exec (.computeVelocity now) s = .next (answered .ok s.velocity s)) ∧
      (t > s.countsElapsed.toNat → ∃ v : Velocity32, v.toInt = s.direction.sign * ((s.cfg.hallK / t : Nat) : Int) ∧
        exec (.computeVelocity now) s = .next (answered .ok v s)))

/-- A transition overtaken by a second edge is never classified: the step classifies the later pair only (R70). -/
def Obligations.OvertakenTransitionIsNeverClassified : Prop :=
  ∀ (s t u v : State) (c1 c2 : HallCode) (n1 n2 : Width16),
    s.halted = false → c1 ≠ s.hallCur → c2 ≠ c1 → n2 ≠ 0 →
    exec (.hallEdge c1 n1) s = .next t → exec (.hallEdge c2 n2) t = .next u → exec .rotorStep u = .next v →
    v.direction = classifyDirection s.cfg c1 c2 ∧ v.rotorPending = false ∧ v.countsElapsed = n2 ∧
    v.log = (if classifyDirection s.cfg c1 c2 = .unknown then s.log ++ [.glitch c1 c2] else s.log)

/-! ### Commutator -/

/-- SIGNAL_CHANGE (R141) posts the change signal; SET_ENABLE (R147) writes the enable flag and posts nothing. -/
def Obligations.SignalChangeAndSetEnableResults : Prop :=
  ∀ s : State, s.Running →
    exec .signalChange s = .next { answered .ok 0 s with commPending := true } ∧
    ∀ en : Bool, exec (.setEnable en) s = .next { answered .ok 0 s with enabled := en }

/-- WRITE_AMPLITUDE (R142): the bound is inclusive; beyond it the block halts and the amplitude is not written; -32768
halts in every configuration; no signal is posted. -/
def Obligations.WriteAmplitudeResult : Prop :=
  ∀ (s : State) (v : Width16Diff), s.Running →
    (absOf (s16 v) ≤ s.cfg.maxAmp →
      exec (.writeAmplitude v) s = .next { answered .ok 0 s with semiAmplitude := v }) ∧
    (absOf (s16 v) > s.cfg.maxAmp →
      exec (.writeAmplitude v) s = .next { answered .halted 0 s with
        halted := true, log := s.log ++ [.halt v] }) ∧
    absOf (s16 0x8000) > s.cfg.maxAmp

/-- GET_MAX_AMPLITUDE answers `floor(PWM_PERIOD / 2)` (R143) and GET_PERIOD answers `PWM_PERIOD` (R181), exactly. -/
def Obligations.ParameterQueriesResults : Prop :=
  ∀ s : State, s.Running →
    (∃ v : Word, v.toInt = ((s.cfg.pwmPeriod / 2 : Nat) : Int) ∧
      exec .getMaxAmplitude s = .next (answered .ok v s)) ∧
    (∃ v : Word, v.toNat = s.cfg.pwmPeriod ∧ exec .getPeriod s = .next (answered .ok v s))

/-- `Bucket` (R144) as six ranges of the angle after the offset. -/
def Obligations.BucketRanges : Prop :=
  ∀ (angle : Angle16) (a : Nat), a = (angle.toNat + 5461) % 65536 →
    (a ≤ 10922 → bucket angle = (.zero, false)) ∧
    (10923 ≤ a → a ≤ 21844 → bucket angle = (.one, false)) ∧
    (21845 ≤ a → a ≤ 32767 → bucket angle = (.two, false)) ∧
    (32768 ≤ a → a ≤ 43690 → bucket angle = (.zero, true)) ∧
    (43691 ≤ a → a ≤ 54612 → bucket angle = (.one, true)) ∧
    (54613 ≤ a → bucket angle = (.two, true))

/-- COMM_STEP (R146): FAIL with nothing pending; without an angle all phases disabled and the angle fault logged;
disabled or faulty, all phases disabled; amplitude 0, the brake; otherwise each phase by its role with widths
`MAXAMP ± amplitude`, swapped in the upper half-circle. In every branch the pattern is staged and committed. -/
def Obligations.CommStepResult : Prop :=
  ∀ (s : State) (live : HallCode), s.Running →
    (s.commPending = false → exec (.commStep live) s = .next (answered .fail 0 s)) ∧
    (s.commPending = true → validCode (angleCode s.hallCur live) = false →
      exec (.commStep live) s = .next { answered .ok 0 s with
        commPending := false
        staged := PerPhase.const { width := 0, enabled := false }
        active := PerPhase.const { width := 0, enabled := false }
        commits := s.commits ++ [PerPhase.const { width := 0, enabled := false }]
        log := s.log ++ [.angleFault] }) ∧
    (s.commPending = true → validCode (angleCode s.hallCur live) = true → (s.enabled = false ∨ s.drvFault = true) →
      exec (.commStep live) s = .next { answered .ok 0 s with
        commPending := false
        staged := PerPhase.const { width := 0, enabled := false }
        active := PerPhase.const { width := 0, enabled := false }
        commits := s.commits ++ [PerPhase.const { width := 0, enabled := false }] }) ∧
    (s.commPending = true → validCode (angleCode s.hallCur live) = true → s.enabled = true → s.drvFault = false →
      s.semiAmplitude = 0 →
      exec (.commStep live) s = .next { answered .ok 0 s with
        commPending := false
        staged := PerPhase.const { width := 0, enabled := true }
        active := PerPhase.const { width := 0, enabled := true }
        commits := s.commits ++ [PerPhase.const { width := 0, enabled := true }] }) ∧
    (s.commPending = true → validCode (angleCode s.hallCur live) = true → s.enabled = true → s.drvFault = false →
      s.semiAmplitude ≠ 0 → absOf (s16 s.semiAmplitude) ≤ s.cfg.maxAmp →
      ∃ (angle : Angle16) (t : PerPhase Channel),
        s.cfg.hallAngleAt (angleCode s.hallCur live) = some angle ∧
        exec (.commStep live) s = .next { answered .ok 0 s with
          commPending := false, staged := t, active := t, commits := s.commits ++ [t] } ∧
        ∀ (half pos neg : Int) (p : Phase), half = s.cfg.maxAmp →
          pos = (if (bucket angle).2 then half - s16 s.semiAmplitude else half + s16 s.semiAmplitude) →
          neg = (if (bucket angle).2 then half + s16 s.semiAmplitude else half - s16 s.semiAmplitude) →
          match (s.cfg.commTable.get (bucket angle).1).get p with
          | .pos => ((t.get p).width.toNat : Int) = pos ∧ (t.get p).enabled = true
          | .neg => ((t.get p).width.toNat : Int) = neg ∧ (t.get p).enabled = true
          | .float => ((t.get p).width.toNat : Int) = half ∧ (t.get p).enabled = false)

/-- The output pattern for each Hall sector (R148), for the DEFAULT tables (the spec marks them general knowledge, D6
and D8; log entry 8): `H` is MAXAMP and `a` the amplitude, within its bound. -/
def Obligations.SectorPatternsOfTheDefaultTables : Prop :=
  ∀ (s t : State) (live : HallCode) (H a : Int) (x y z : Channel),
    s.halted = false → s.cfg.hallAngle = Config.defaultHallAngle → s.cfg.commTable = Config.defaultCommTable →
    s.enabled = true → s.drvFault = false → s.commPending = true → s.semiAmplitude ≠ 0 →
    absOf (s16 s.semiAmplitude) ≤ s.cfg.maxAmp → H = s.cfg.maxAmp → a = s16 s.semiAmplitude →
    x = { width := BitVec.ofInt 16 (H + a), enabled := true } →
    y = { width := BitVec.ofInt 16 (H - a), enabled := true } →
    z = { width := BitVec.ofInt 16 H, enabled := false } →
    exec (.commStep live) s = .next t →
    (s.hallCur = 1 → t.active = { a := z, b := x, c := y }) ∧
    (s.hallCur = 5 → t.active = { a := y, b := x, c := z }) ∧
    (s.hallCur = 4 → t.active = { a := y, b := z, c := x }) ∧
    (s.hallCur = 6 → t.active = { a := z, b := y, c := x }) ∧
    (s.hallCur = 2 → t.active = { a := x, b := y, c := z }) ∧
    (s.hallCur = 3 → t.active = { a := x, b := z, c := y })

/-- Whatever the tables, a COMM_STEP that ran committed one of four patterns (R149 (a), (c)), every width is at most
`2 * MAXAMP` and at most the period (R149 (b)), and never is exactly one phase enabled (R149(d) as far as it is true; log
entry 23). -/
def Obligations.CommittedPatternIsOneOfFour : Prop :=
  ∀ (s t : State) (live : HallCode),
    s.halted = false → s.commPending = true → absOf (s16 s.semiAmplitude) ≤ s.cfg.maxAmp →
    exec (.commStep live) s = .next t →
    (t.active = PerPhase.const { width := 0, enabled := false } ∨
      t.active = PerPhase.const { width := 0, enabled := true } ∨
      (s16 s.semiAmplitude ≠ 0 ∧ Driven s.cfg.maxAmp (s16 s.semiAmplitude) t.active)) ∧
    (∀ p : Phase, (t.active.get p).width.toNat ≤ 2 * s.cfg.maxAmp ∧ 2 * s.cfg.maxAmp ≤ s.cfg.pwmPeriod) ∧
    ¬ ∃ p : Phase, ∀ q : Phase, (t.active.get q).enabled = true ↔ q = p

/-- Outputs are enabled by a COMM_STEP only if the block was enabled, fault-free and had a valid angle then; and
FAULT_POLL itself changes no output (R192, R252). -/
def Obligations.OutputsEnabledOnlyWhenSafe : Prop :=
  (∀ (s t : State) (live : HallCode), s.halted = false → s.commPending = true → exec (.commStep live) s = .next t →
    anyEnabled t.active = true →
    s.enabled = true ∧ s.drvFault = false ∧ (validCode s.hallCur = true ∨ validCode live = true)) ∧
  (∀ (s t : State) (f : Bool), exec (.faultPoll f) s = .next t → t.active = s.active)

/-- The ordering hazard of R236: an amplitude written after its signal was consumed stays without effect, since nothing
is pending; written before the signal, the same amplitude is committed. -/
def Obligations.WriteThenSignalIsTheWorkingOrder : Prop :=
  ∀ (s : State) (v : Width16Diff) (live : HallCode),
    s.Running → absOf (s16 v) ≤ s.cfg.maxAmp →
    (∃ a b c d : State, exec .signalChange s = .next a ∧ exec (.commStep live) a = .next b ∧
      exec (.writeAmplitude v) b = .next c ∧ exec (.commStep live) c = .next d ∧
      d = answered .fail 0 c ∧ d.semiAmplitude = v ∧ d.active = b.active) ∧
    (∃ a b c : State, exec (.writeAmplitude v) s = .next a ∧ exec .signalChange a = .next b ∧
      exec (.commStep live) b = .next c ∧ c.semiAmplitude = v ∧ c.commPending = false ∧
      (s.enabled = true → s.drvFault = false → validCode (angleCode s.hallCur live) = true → v ≠ 0 →
        Driven s.cfg.maxAmp (s16 v) c.active))

/-! ### Throttle -/

/-- SERVO_WIDTH (R161) latches the width and nothing else. -/
def Obligations.ServoWidthResult : Prop :=
  ∀ (s : State) (w : Width16), s.Running →
    exec (.servoWidth w) s = .next { answered .ok 0 s with servoWidth := w }

/-- SERVO_PERIOD (R162, R164, R165): a qualifying pulse clears the overflow counter and writes the slew-limited mapped
amplitude, exactly, to both amplitude registers, with the enable and the signal; any other takes the invalid branch,
which writes neither `semi_amplitude` nor the counter. -/
def Obligations.ServoPeriodResult : Prop :=
  ∀ (s : State) (period : Width16) (valid : Bool), s.Running →
    absOf (s16 s.lastAmplitude) ≤ s.cfg.maxAmp →
    (valid = true ∧ (s.cfg.servoLow : Int) - s.cfg.servoMargin ≤ s.servoWidth.toNat ∧
      (s.servoWidth.toNat : Int) ≤ s.cfg.servoHigh + s.cfg.servoMargin →
      ∃ amp : Width16Diff,
        amp.toInt = slewStep s.cfg s.lastAmplitude.toInt
          (mapRange s.cfg.servoLow s.cfg.servoHigh (clamp s.servoWidth.toNat s.cfg.servoLow s.cfg.servoHigh)
            (-(s.cfg.maxAmp : Int)) s.cfg.maxAmp s.cfg.servoDeadband) period.toNat ∧
        absOf amp.toInt ≤ s.cfg.maxAmp ∧
        exec (.servoPeriod period valid) s = .next { answered .ok 0 s with
          servoPeriod := period, servoOvfCount := 0, lastAmplitude := amp, semiAmplitude := amp
          enabled := true, commPending := true }) ∧
    (¬ (valid = true ∧ (s.cfg.servoLow : Int) - s.cfg.servoMargin ≤ s.servoWidth.toNat ∧
      (s.servoWidth.toNat : Int) ≤ s.cfg.servoHigh + s.cfg.servoMargin) →
      exec (.servoPeriod period valid) s = .next { answered .ok 0 s with
        servoPeriod := period, lastAmplitude := 0, enabled := false, commPending := true })

/-- SERVO_OVF (R163): the counter saturates at 255; at the limit the invalid branch is taken, and again at every later
overflow; below it only the counter changes. -/
def Obligations.ServoOvfResult : Prop :=
  ∀ s : State, s.Running →
    ∃ n : BitVec 8, n.toNat = min (s.servoOvfCount.toNat + 1) 255 ∧
      (n.toNat < s.cfg.servoOvfLimit → exec .servoOvf s = .next { answered .ok 0 s with servoOvfCount := n }) ∧
      (n.toNat ≥ s.cfg.servoOvfLimit → exec .servoOvf s = .next { answered .ok 0 s with
        servoOvfCount := n, lastAmplitude := 0, enabled := false, commPending := true })

/-! ### Inverter and supervisor -/

/-- WRITE_CHANNEL (R182): the phase's staged register takes the pair, unchecked; the two other staged registers and all
outputs keep their values. -/
def Obligations.WriteChannelResult : Prop :=
  ∀ (s : State) (p : Phase) (w : Width16) (e : Bool), s.Running →
    ∃ t : PerPhase Channel,
      exec (.writeChannel p w e) s = .next { answered .ok 0 s with staged := t } ∧
      t.get p = { width := w, enabled := e } ∧ ∀ q : Phase, q ≠ p → t.get q = s.staged.get q

/-- SYNC_MODES (R183): all three active registers take the staged values in one transition; the staged registers keep
theirs. -/
def Obligations.SyncModesResult : Prop :=
  ∀ s : State, s.Running →
    exec .syncModes s = .next { answered .ok 0 s with active := s.staged, commits := s.commits ++ [s.staged] }

/-- FAULT_POLL (R191) latches the result and posts the change signal. -/
def Obligations.FaultPollResult : Prop :=
  ∀ (s : State) (f : Bool), s.Running →
    exec (.faultPoll f) s = .next { answered .ok 0 s with drvFault := f, commPending := true }

/-- The outputs change only at SYNC_MODES or COMM_STEP, and then to a triple that was staged in full (R68(b), R186). -/
def Obligations.OutputsChangeOnlyAtACommit : Prop :=
  ∀ (i : Instr) (s t : State), exec i s = .next t → t.active ≠ s.active →
    (i = .syncModes ∨ ∃ live, i = .commStep live) ∧ t.active = t.staged ∧ t.commits = s.commits ++ [t.active]

/-! ### Whole-machine rules -/

/-- The frame of every operation: each state element has the writers of R49 and no others, and no operation writes the
configuration, the inputs or the record of commands. -/
def Obligations.EveryElementHasItsWritersOnly : Prop :=
  ∀ (i : Instr) (s t : State), exec i s = .next t →
    ((t.hallCur ≠ s.hallCur ∨ t.hallPrev ≠ s.hallPrev ∨ t.countsElapsed ≠ s.countsElapsed) →
      ∃ c n, i = .hallEdge c n) ∧
    (t.hallOverflow ≠ s.hallOverflow → i = .hallOvf ∨ ∃ c n, i = .hallEdge c n) ∧
    ((t.velocity ≠ s.velocity ∨ t.direction ≠ s.direction) → i = .rotorStep) ∧
    (t.rotorPending ≠ s.rotorPending → i = .rotorStep ∨ ∃ c n, i = .hallEdge c n) ∧
    (t.semiAmplitude ≠ s.semiAmplitude → (∃ v, i = .writeAmplitude v) ∨ ∃ p v, i = .servoPeriod p v) ∧
    (t.enabled ≠ s.enabled → (∃ e, i = .setEnable e) ∨ (∃ p v, i = .servoPeriod p v) ∨ i = .servoOvf) ∧
    (t.drvFault ≠ s.drvFault → ∃ f, i = .faultPoll f) ∧
    (t.commPending ≠ s.commPending → (∃ c n, i = .hallEdge c n) ∨ i = .signalChange ∨ (∃ p v, i = .servoPeriod p v) ∨
      i = .servoOvf ∨ (∃ f, i = .faultPoll f) ∨ ∃ l, i = .commStep l) ∧
    (t.halted ≠ s.halted → ∃ v, i = .writeAmplitude v) ∧
    (t.servoWidth ≠ s.servoWidth → ∃ w, i = .servoWidth w) ∧
    (t.servoPeriod ≠ s.servoPeriod → ∃ p v, i = .servoPeriod p v) ∧
    (t.servoOvfCount ≠ s.servoOvfCount → i = .servoOvf ∨ ∃ p v, i = .servoPeriod p v) ∧
    (t.lastAmplitude ≠ s.lastAmplitude → i = .servoOvf ∨ ∃ p v, i = .servoPeriod p v) ∧
    (t.staged ≠ s.staged → (∃ p w e, i = .writeChannel p w e) ∨ ∃ l, i = .commStep l) ∧
    (t.active ≠ s.active → i = .syncModes ∨ ∃ l, i = .commStep l) ∧
    t.cfg = s.cfg ∧ t.inputs = s.inputs ∧ t.commands = s.commands

/-- Who sets and who clears each of the six flags of R42. -/
def Obligations.FlagsHaveTheirSettersAndClearers : Prop :=
  ∀ (i : Instr) (s t : State), exec i s = .next t →
    (s.hallOverflow = false → t.hallOverflow = true → i = .hallOvf) ∧
    (s.hallOverflow = true → t.hallOverflow = false → ∃ c n, i = .hallEdge c n ∧ c ≠ s.hallCur) ∧
    (s.rotorPending = false → t.rotorPending = true → ∃ c n, i = .hallEdge c n ∧ c ≠ s.hallCur) ∧
    (s.rotorPending = true → t.rotorPending = false → i = .rotorStep) ∧
    (s.commPending = false → t.commPending = true →
      (∃ c n, i = .hallEdge c n ∧ c ≠ s.hallCur) ∨ i = .signalChange ∨ (∃ p v, i = .servoPeriod p v) ∨
      (i = .servoOvf ∧ s.cfg.servoOvfLimit ≤ s.servoOvfCount.toNat + 1) ∨ ∃ f, i = .faultPoll f) ∧
    (s.commPending = true → t.commPending = false → ∃ l, i = .commStep l) ∧
    (s.enabled = false → t.enabled = true →
      i = .setEnable true ∨ ∃ p, i = .servoPeriod p true ∧ widthAccepted s.cfg s.servoWidth = true) ∧
    (s.enabled = true → t.enabled = false →
      i = .setEnable false ∨
      (∃ p v, i = .servoPeriod p v ∧ (v = false ∨ widthAccepted s.cfg s.servoWidth = false)) ∨
      (i = .servoOvf ∧ s.cfg.servoOvfLimit ≤ s.servoOvfCount.toNat + 1)) ∧
    (s.drvFault = false → t.drvFault = true → i = .faultPoll true) ∧
    (s.drvFault = true → t.drvFault = false → i = .faultPoll false) ∧
    (s.halted = false → t.halted = true → ∃ v, i = .writeAmplitude v ∧ absOf (s16 v) > s.cfg.maxAmp) ∧
    (s.halted = true → t.halted = true)

/-- The queries have no side effect and repeat (R65): each adds one response and changes nothing else, and repeated at
once it gives the same response. -/
def Obligations.QueriesArePureAndRepeat : Prop :=
  ∀ (i : Instr) (s : State), s.cfg.wf = true →
    ((∃ l, i = .computeAngle l) ∨ (∃ n, i = .computeVelocity n) ∨ i = .getMaxAmplitude ∨ i = .getPeriod) →
    ∃ (st : Status) (v : Word), exec i s = .next (answered st v s) ∧
      exec i (answered st v s) = .next (answered st v (answered st v s))

/-- Every operation and every sequence of inputs has a defined outcome (R235): with a well-formed configuration nothing
faults or is refused, and the configuration never changes (R234). -/
def Obligations.EveryRunHasADefinedOutcome : Prop :=
  (∀ (i : Instr) (s : State), s.cfg.wf = true → ∃ t, exec i s = .next t ∧ t.cfg = s.cfg) ∧
  ∀ (k : Nat) (s : State), s.cfg.wf = true → ∃ t, runSteps k s = .next t ∧ t.cfg = s.cfg

/-- Every operation gives exactly one response, its value is 0 unless the status is OK, and only a word that no row
selects is answered ILLEGAL (R87). -/
def Obligations.OneResponsePerCommand : Prop :=
  (∀ (i : Instr) (s t : State), exec i s = .next t →
    ∃ r : Response, t.responses = s.responses ++ [r] ∧ (r.status ≠ .ok → r.value = 0) ∧ r.status ≠ .illegal ∧
      (r.status = .halted ↔ t.halted = true)) ∧
  (∀ (s t : State) (w : Word) (rest : List PortInput), s.inputs = .command w :: rest → step s = .next t →
    t.commands = s.commands ++ [w] ∧
    ∃ r : Response, t.responses = s.responses ++ [r] ∧
      (r.status = .illegal ↔ s.halted = false ∧ legalWord w = false))

/-- An operation emits at most one event, each kind from one operation only, with the payload R216 says; the capture
sources never log (R214). -/
def Obligations.EventsComeFromTheirOperations : Prop :=
  ∀ (i : Instr) (s t : State), exec i s = .next t →
    (t.log = s.log ∨ ∃ e, t.log = s.log ++ [e] ∧
      ((i = .rotorStep ∧ e = .glitch s.hallPrev s.hallCur) ∨ ((∃ l, i = .commStep l) ∧ e = .angleFault) ∨
        ∃ v, i = .writeAmplitude v ∧ e = .halt v)) ∧
    (contextOf i = .captureSource → t.log = s.log)

/-- The event words (R216): code, payload fields, every other bit 0, and the two worked examples. -/
def Obligations.EventWordFields : Prop :=
  (∀ p c : HallCode, (Event.glitch p c).word.toNat = 0x01000000 + 8 * p.toNat + c.toNat) ∧
  Event.angleFault.word = 0x02000000 ∧
  (∀ v : Width16Diff, (Event.halt v).word.toNat = 0x03000000 + v.toNat) ∧
  (Event.glitch 1 4).word = 0x0100000C ∧ (Event.halt 1001).word = 0x030003E9

/-- What each error condition of R200 does, for the conditions as `conditionOf` reads them off an operation and a state
(the model's reading, log entry 24): a failed query answers FAIL; an invalid angle coasts and is logged; after an
overflow HALL_EDGE stores COUNT_MAX, and COMPUTE_VELOCITY answers the magnitude recomputed from the estimate (the cached
velocity where the estimate does not exceed the interval, R129); a glitch zeroes and is logged; a lost signal disables;
a driver fault is latched; only the amplitude precondition halts. -/
def Obligations.ConditionsAreReportedAsTheTaxonomySays : Prop :=
  ∀ (i : Instr) (s t : State), s.halted = false → exec i s = .next t →
    (conditionOf i s = some .hallInvalid →
      (∃ l, i = .computeAngle l ∧ t = answered .fail 0 s) ∨
      (∃ l, i = .commStep l ∧ t.log = s.log ++ [.angleFault] ∧ allDisabled t.active = true ∧
        t.responses = s.responses ++ [{ status := .ok, value := 0 }])) ∧
    (conditionOf i s = some .velocityUnavailable → t = answered .fail 0 s) ∧
    (conditionOf i s = some .staleOrOverflow →
      (∃ code ticks, i = .hallEdge code ticks ∧ t.countsElapsed.toNat = s.cfg.countMax ∧ t.log = s.log ∧
        t.responses = s.responses ++ [{ status := .ok, value := 0 }]) ∨
      ∃ (now : Width16) (v : Velocity32) (n : Nat), i = .computeVelocity now ∧ t = answered .ok v s ∧
        n = (if s.hallOverflow = true then s.cfg.countMax else now.toNat) ∧
        (n > s.countsElapsed.toNat → v.toInt = s.direction.sign * ((s.cfg.hallK / n : Nat) : Int)) ∧
        (n ≤ s.countsElapsed.toNat → v = s.velocity)) ∧
    (conditionOf i s = some .glitch →
      t.log = s.log ++ [.glitch s.hallPrev s.hallCur] ∧ t.velocity = 0 ∧ t.direction = .unknown ∧
      t.active = s.active) ∧
    (conditionOf i s = some .servoSignalLoss →
      t.lastAmplitude = 0 ∧ t.enabled = false ∧ t.commPending = true ∧ t.semiAmplitude = s.semiAmplitude ∧
      t.log = s.log) ∧
    (conditionOf i s = some .driverFault → t.drvFault = true ∧ t.commPending = true ∧ t.active = s.active) ∧
    (conditionOf i s = some .amplitudePrecondition ↔ t.halted = true)

/-- What the step lemmas below keep holds after reset, for every well-formed configuration and whatever is presented: the
invariants of R46, the closed gate, and the outputs as the commutator's own, all off. -/
def Obligations.InvariantHoldsAtReset : Prop :=
  ∀ (c : Config) (ins : List PortInput) (s : State), c.wf = true → s = { State.reset with cfg := c, inputs := ins } →
    s.Inv ∧ s.Closed ∧ s.CommutatorOnly ∧ anyEnabled s.active = false

/-- Every step keeps the invariants of R46: amplitudes within MAXAMP, velocity and direction in agreement, the Hall pair
distinct, the outputs the last committed triple, one response to each command. -/
def Obligations.EveryStepKeepsTheInvariant : Prop := ∀ s t : State, s.Inv → step s = .next t → t.Inv

/-- In every reachable state of a well-formed configuration: (a), (b) and (d) of R46; (c) with the tick count that the
ROTOR_STEP which wrote the pair saw: it ran at a reachable `u` and answered `v`, and the run from `v` to `s` holds no
other ROTOR_STEP that runs and no reset; and (e) as R187 has it. -/
def Obligations.ReachableStatesSatisfyR46 : Prop :=
  ∀ (c : Config) (s : State), c.wf = true → Reachable c s →
    s.cfg = c ∧
    absOf (s16 s.semiAmplitude) ≤ c.maxAmp ∧ absOf (s16 s.lastAmplitude) ≤ c.maxAmp ∧
    (s.direction = .unknown → s.velocity = 0) ∧
    (s.direction ≠ .unknown → signOf s.velocity.toInt = s.direction.sign ∧
      ∃ (u v : State) (k : Nat), Reachable c u ∧ u.rotorRuns = true ∧ step u = .next v ∧ runSteps k v = .next s ∧
        (∀ (j : Nat) (x : State), j < k → runSteps j v = .next x → x.rotorRuns = false ∧ x.resetNext = false) ∧
        v.velocity = s.velocity ∧ v.direction = s.direction ∧ 1 ≤ u.countsElapsed.toNat ∧
        absOf s.velocity.toInt = ((c.hallK / u.countsElapsed.toNat : Nat) : Int)) ∧
    (s.hallCur ≠ s.hallPrev ∨ (s.hallCur = 0 ∧ s.hallPrev = 0)) ∧
    (s.active = resetTriple ∨ s.commits.getLast? = some s.active)

/-- Both sequencers settle: one ROTOR_STEP and one COMM_STEP, whatever was pending, leave a quiescent block, and both
steps then answer FAIL and change nothing (R251). -/
def Obligations.OneStepOfEachSequencerSettles : Prop :=
  ∀ (s : State) (live : HallCode), s.Running →
    ∃ t u : State, exec .rotorStep s = .next t ∧ exec (.commStep live) t = .next u ∧ u.quiescent = true ∧
      exec .rotorStep u = .next (answered .fail 0 u) ∧
      ∀ l : HallCode, exec (.commStep l) u = .next (answered .fail 0 u)

/-- With only weakly fair sequencers running, a block that is not halted becomes quiescent and stays so (R251, R73). -/
def Obligations.FairSequencersReachQuiescence : Prop :=
  ∀ (sched : Nat → Instr) (run : Nat → State),
    SequencerRun sched run → WeaklyFair sched run → (run 0).halted = false →
    ∃ n, ∀ m, n ≤ m → (run m).quiescent = true

/-- Fail closed, the step lemma of R232(e): while the gate is closed and no channel is enabled, a step keeps it so unless
it stages an enabled channel or gives the one opener still missing: `FAULT_POLL 0` while enabled, or an enable
(`SET_ENABLE 1`, or a SERVO_PERIOD that qualifies in that state) while fault-free. -/
def Obligations.EveryStepKeepsTheGateClosed : Prop :=
  ∀ s t : State, s.Closed → step s = .next t →
    (∀ i, s.nextInstr = some i →
      stagesEnabled i = false ∧ (i = .faultPoll false → s.enabled = false) ∧
      (enables i s = true → s.drvFault = true)) →
    t.Closed

/-- Fail closed, from reset (R232(e)): whatever is presented and in whatever order, as long as no step has staged an
enabled channel, and either none has been a `FAULT_POLL 0` or none has been an enable (a SERVO_PERIOD counts only where
it qualifies), no output is enabled. -/
def Obligations.NothingDrivesBeforeFaultPollAndEnable : Prop :=
  ∀ (c : Config) (ins : List PortInput) (k : Nat) (s t : State),
    s = { State.reset with cfg := c, inputs := ins } → runSteps k s = .next t →
    (∀ (j : Nat) (u : State) (i : Instr), j < k → runSteps j s = .next u → u.nextInstr = some i →
      stagesEnabled i = false) →
    ((∀ (j : Nat) (u : State), j < k → runSteps j s = .next u → u.nextInstr ≠ some (.faultPoll false)) ∨
      ∀ (j : Nat) (u : State) (i : Instr), j < k → runSteps j s = .next u → u.nextInstr = some i →
        enables i u = false) →
    ∀ p : Phase, t.pwmEnable p = false

/-- The step lemma of R187's second sentence: while only the commutator writes the inverter (no WRITE_CHANNEL; a
SYNC_MODES may stand between), the outputs stay one of its patterns, with widths for a legal amplitude. -/
def Obligations.EveryStepKeepsTheCommutatorsPatterns : Prop :=
  ∀ s t : State, s.CommutatorOnly → step s = .next t →
    (∀ i, s.nextInstr = some i → stagesChannel i = false) → t.CommutatorOnly

/-- The step lemma of R252: while only the commutator writes the inverter, some output is enabled exactly when, at the
most recent COMM_STEP that ran, the block was enabled, fault-free and had a valid angle. `g` says so before the step and
`gateAfter` after it; after reset it is false. -/
def Obligations.OutputsFollowTheLastCommStep : Prop :=
  ∀ (s t : State) (g : Bool), s.staged = s.active → anyEnabled s.active = g → step s = .next t →
    (∀ i, s.nextInstr = some i → stagesChannel i = false) →
    t.staged = t.active ∧ anyEnabled t.active = s.gateAfter g

/-! ### Arithmetic -/

/-- Angle16 addition and subtraction wrap (R101), the opposite angle is an involution, and `AngleDiff` is the signed way
from one angle to the other within an s16 (R102). -/
def Obligations.AngleArithmeticWraps : Prop :=
  ∀ a b : Angle16,
    (angleAdd a b).toNat = (a.toNat + b.toNat) % 65536 ∧
    ((angleSub a b).toNat : Int) = ((a.toNat : Int) - b.toNat) % 65536 ∧
    angleAdd (angleAdd a 32768) 32768 = a ∧
    -32768 ≤ angleDiff a b ∧ angleDiff a b ≤ 32767 ∧ wrap16 ((b.toNat : Int) + angleDiff a b) = a

/-- Degree conversion recovers every whole degree from 0 to 359, and 360 only modulo a full circle (R108, R109). -/
def Obligations.DegreeRoundTrip : Prop :=
  (∀ d : Nat, d ≤ 359 → angle16ToDegrees (degreesToAngle16 d) = d) ∧ degreesToAngle16 360 = 0 ∧
  ∀ a : Angle16, angle16ToDegrees a ≤ 360

/-- A speed is never 0 and always fits Velocity32 (R110), and longer intervals never give larger speeds. -/
def Obligations.SpeedFromTicksFitsVelocity32 : Prop :=
  ∀ (c : Config) (t u : Nat), c.wf = true → 1 ≤ t → t ≤ u → u ≤ 65535 →
    1 ≤ speedFromTicks c t ∧ speedFromTicks c t ≤ 2147418112 ∧ speedFromTicks c u ≤ speedFromTicks c t

/-- `Average` is the floor of the mean when its arguments are in order, and truncating division is odd (R104, R107). -/
def Obligations.AverageAndTruncatingDivision : Prop :=
  (∀ a b : Int, a ≤ b → average a b = (a + b) / 2) ∧ (∀ p : Int, 0 ≤ p → average (-p) p = 0) ∧
  (∀ a b : Int, b ≠ 0 → tdiv (-a) b = -tdiv a b ∧ absOf (tdiv a b) = absOf a / absOf b)

/-- The value of `MapRange` on its domain, exactly (R111): the output centre within the deadband, and on either side of
it the input distance beyond the deadband, scaled by that side's half ranges, product first, divided truncating toward
zero. The centres are the averages of R104 written out; the final clamp changes nothing there. -/
def Obligations.MapRangeExactValue : Prop :=
  ∀ inLow inHigh x outLow outHigh deadband inC outC : Int,
    inLow < inHigh → outLow ≤ outHigh → 0 ≤ deadband → inLow ≤ x → x ≤ inHigh →
    inC = inLow + Int.tdiv (inHigh - inLow) 2 → outC = outLow + Int.tdiv (outHigh - outLow) 2 →
    deadband < inHigh - inC → deadband < inC - inLow →
    (inC - deadband ≤ x → x ≤ inC + deadband → mapRange inLow inHigh x outLow outHigh deadband = outC) ∧
    (inC + deadband < x → mapRange inLow inHigh x outLow outHigh deadband =
      outC + Int.tdiv ((x - inC - deadband) * (outHigh - outC)) (inHigh - inC - deadband)) ∧
    (x < inC - deadband → mapRange inLow inHigh x outLow outHigh deadband =
      outC + Int.tdiv ((x - inC + deadband) * (outC - outLow)) (inC - inLow - deadband))

/-- The properties of `MapRange` that R112 lists: 0 at the centre, the bounds, continuity at both ends of the deadband, the
end points and monotonicity. -/
def Obligations.MapRangeProperties : Prop :=
  (∀ p : Int, 0 ≤ p → mapRange 1200 1800 1500 (-p) p 17 = 0) ∧
  ∀ inLow inHigh outLow outHigh deadband inC outC : Int,
    inLow < inHigh → outLow ≤ outHigh → 0 ≤ deadband → inC = average inLow inHigh → outC = average outLow outHigh →
    deadband < inHigh - inC → deadband < inC - inLow →
    (∀ x, inLow ≤ x → x ≤ inHigh →
      outLow ≤ mapRange inLow inHigh x outLow outHigh deadband ∧
      mapRange inLow inHigh x outLow outHigh deadband ≤ outHigh) ∧
    mapRange inLow inHigh (inC + deadband) outLow outHigh deadband = outC ∧
    mapRange inLow inHigh (inC + deadband + 1) outLow outHigh deadband =
      outC + tdiv (outHigh - outC) (inHigh - inC - deadband) ∧
    mapRange inLow inHigh (inC - deadband) outLow outHigh deadband = outC ∧
    mapRange inLow inHigh (inC - deadband - 1) outLow outHigh deadband =
      outC - tdiv (outC - outLow) (inC - inLow - deadband) ∧
    mapRange inLow inHigh inHigh outLow outHigh deadband = outHigh ∧
    mapRange inLow inHigh inLow outLow outHigh deadband = outLow ∧
    ∀ x y, inLow ≤ x → x ≤ y → y ≤ inHigh →
      mapRange inLow inHigh x outLow outHigh deadband ≤ mapRange inLow inHigh y outLow outHigh deadband

/-- The slew limiter on its domain (R113): the change per pulse is at most `floor(SLEW_LIMIT * period / CAPTURE_FREQ_MS)`,
the result lies between the last amplitude and the target, so it is at most MAXAMP in magnitude, the target is reached
when it is within the bound, and nothing moves for a period or a limit of 0. -/
def Obligations.SlewStepIsBounded : Prop :=
  ∀ (c : Config) (last target : Int) (period : Nat) (m : Int),
    c.wf = true → absOf last ≤ c.maxAmp → absOf target ≤ c.maxAmp → period ≤ 65535 →
    m = ((c.slewLimit * period / (c.servoCaptureFreqHz / 1000) : Nat) : Int) →
    slewStep c last target period = last + clamp (target - last) (-m) m ∧
    absOf (slewStep c last target period - last) ≤ m ∧
    (last ≤ target → last ≤ slewStep c last target period ∧ slewStep c last target period ≤ target) ∧
    (target ≤ last → target ≤ slewStep c last target period ∧ slewStep c last target period ≤ last) ∧
    absOf (slewStep c last target period) ≤ c.maxAmp ∧
    (absOf (target - last) ≤ m → slewStep c last target period = target) ∧
    (period = 0 ∨ c.slewLimit = 0 → slewStep c last target period = last)
end

