-- ==== Sys2Proof/Laws/Encoding.lean ====
section
/-! SUPPORT. The fields of an encoded word, bit by bit (spec/30_encoding.md R81). -/

namespace Sys2Proof

theorem opField_wordOf (op : BitVec 8) (f3 : BitVec 3) (f16 : BitVec 16) : opField (wordOf op f3 f16) = op := by
  unfold opField wordOf
  apply BitVec.eq_of_getLsbD_eq; intro i hi
  interval_cases i <;> simp

theorem f3Field_wordOf (op : BitVec 8) (f3 : BitVec 3) (f16 : BitVec 16) : f3Field (wordOf op f3 f16) = f3 := by
  unfold f3Field wordOf
  apply BitVec.eq_of_getLsbD_eq; intro i hi
  interval_cases i <;> simp

theorem f16Field_wordOf (op : BitVec 8) (f3 : BitVec 3) (f16 : BitVec 16) : f16Field (wordOf op f3 f16) = f16 := by
  unfold f16Field wordOf
  apply BitVec.eq_of_getLsbD_eq; intro i hi
  interval_cases i <;> simp

theorem reserved_wordOf (op : BitVec 8) (f3 : BitVec 3) (f16 : BitVec 16) :
    (wordOf op f3 f16).extractLsb' 19 5 = 0 := by
  unfold wordOf
  apply BitVec.eq_of_getLsbD_eq; intro i hi
  interval_cases i <;> simp

theorem ifClear_ok {c : Bool} {i j : Instr} : ifClear c i = .ok j ↔ c = true ∧ i = j := by
  cases c <;> simp [ifClear]

end Sys2Proof
end

