-- ==== Sys2Proof/Laws/State.lean ====
section
/-! SUPPORT. One lemma per field per update of the state, so that no later proof unfolds a record update. -/

namespace Sys2Proof.Machine

@[simp] theorem respond_hallCur (st : Status) (v : Word) (s : State) : (respond st v s).hallCur = s.hallCur := rfl
@[simp] theorem respond_hallPrev (st : Status) (v : Word) (s : State) : (respond st v s).hallPrev = s.hallPrev := rfl
@[simp] theorem respond_countsElapsed (st : Status) (v : Word) (s : State) :
    (respond st v s).countsElapsed = s.countsElapsed := rfl
@[simp] theorem respond_hallOverflow (st : Status) (v : Word) (s : State) :
    (respond st v s).hallOverflow = s.hallOverflow := rfl
@[simp] theorem respond_velocity (st : Status) (v : Word) (s : State) : (respond st v s).velocity = s.velocity := rfl
@[simp] theorem respond_direction (st : Status) (v : Word) (s : State) : (respond st v s).direction = s.direction := rfl
@[simp] theorem respond_rotorPending (st : Status) (v : Word) (s : State) :
    (respond st v s).rotorPending = s.rotorPending := rfl
@[simp] theorem respond_semiAmplitude (st : Status) (v : Word) (s : State) :
    (respond st v s).semiAmplitude = s.semiAmplitude := rfl
@[simp] theorem respond_enabled (st : Status) (v : Word) (s : State) : (respond st v s).enabled = s.enabled := rfl
@[simp] theorem respond_drvFault (st : Status) (v : Word) (s : State) : (respond st v s).drvFault = s.drvFault := rfl
@[simp] theorem respond_commPending (st : Status) (v : Word) (s : State) :
    (respond st v s).commPending = s.commPending := rfl
@[simp] theorem respond_halted (st : Status) (v : Word) (s : State) : (respond st v s).halted = s.halted := rfl
@[simp] theorem respond_servoWidth (st : Status) (v : Word) (s : State) :
    (respond st v s).servoWidth = s.servoWidth := rfl
@[simp] theorem respond_servoPeriod (st : Status) (v : Word) (s : State) :
    (respond st v s).servoPeriod = s.servoPeriod := rfl
@[simp] theorem respond_servoOvfCount (st : Status) (v : Word) (s : State) :
    (respond st v s).servoOvfCount = s.servoOvfCount := rfl
@[simp] theorem respond_lastAmplitude (st : Status) (v : Word) (s : State) :
    (respond st v s).lastAmplitude = s.lastAmplitude := rfl
@[simp] theorem respond_staged (st : Status) (v : Word) (s : State) : (respond st v s).staged = s.staged := rfl
@[simp] theorem respond_active (st : Status) (v : Word) (s : State) : (respond st v s).active = s.active := rfl
@[simp] theorem respond_log (st : Status) (v : Word) (s : State) : (respond st v s).log = s.log := rfl
@[simp] theorem respond_responses (st : Status) (v : Word) (s : State) :
    (respond st v s).responses = s.responses ++ [{ status := st, value := v }] := rfl
@[simp] theorem respond_commands (st : Status) (v : Word) (s : State) : (respond st v s).commands = s.commands := rfl
@[simp] theorem respond_commits (st : Status) (v : Word) (s : State) : (respond st v s).commits = s.commits := rfl
@[simp] theorem respond_cfg (st : Status) (v : Word) (s : State) : (respond st v s).cfg = s.cfg := rfl
@[simp] theorem respond_inputs (st : Status) (v : Word) (s : State) : (respond st v s).inputs = s.inputs := rfl

@[simp] theorem emit_hallCur (e : Event) (s : State) : (emit e s).hallCur = s.hallCur := rfl
@[simp] theorem emit_hallPrev (e : Event) (s : State) : (emit e s).hallPrev = s.hallPrev := rfl
@[simp] theorem emit_countsElapsed (e : Event) (s : State) : (emit e s).countsElapsed = s.countsElapsed := rfl
@[simp] theorem emit_hallOverflow (e : Event) (s : State) : (emit e s).hallOverflow = s.hallOverflow := rfl
@[simp] theorem emit_velocity (e : Event) (s : State) : (emit e s).velocity = s.velocity := rfl
@[simp] theorem emit_direction (e : Event) (s : State) : (emit e s).direction = s.direction := rfl
@[simp] theorem emit_rotorPending (e : Event) (s : State) : (emit e s).rotorPending = s.rotorPending := rfl
@[simp] theorem emit_semiAmplitude (e : Event) (s : State) : (emit e s).semiAmplitude = s.semiAmplitude := rfl
@[simp] theorem emit_enabled (e : Event) (s : State) : (emit e s).enabled = s.enabled := rfl
@[simp] theorem emit_drvFault (e : Event) (s : State) : (emit e s).drvFault = s.drvFault := rfl
@[simp] theorem emit_commPending (e : Event) (s : State) : (emit e s).commPending = s.commPending := rfl
@[simp] theorem emit_halted (e : Event) (s : State) : (emit e s).halted = s.halted := rfl
@[simp] theorem emit_servoWidth (e : Event) (s : State) : (emit e s).servoWidth = s.servoWidth := rfl
@[simp] theorem emit_servoPeriod (e : Event) (s : State) : (emit e s).servoPeriod = s.servoPeriod := rfl
@[simp] theorem emit_servoOvfCount (e : Event) (s : State) : (emit e s).servoOvfCount = s.servoOvfCount := rfl
@[simp] theorem emit_lastAmplitude (e : Event) (s : State) : (emit e s).lastAmplitude = s.lastAmplitude := rfl
@[simp] theorem emit_staged (e : Event) (s : State) : (emit e s).staged = s.staged := rfl
@[simp] theorem emit_active (e : Event) (s : State) : (emit e s).active = s.active := rfl
@[simp] theorem emit_log (e : Event) (s : State) : (emit e s).log = s.log ++ [e] := rfl
@[simp] theorem emit_responses (e : Event) (s : State) : (emit e s).responses = s.responses := rfl
@[simp] theorem emit_commands (e : Event) (s : State) : (emit e s).commands = s.commands := rfl
@[simp] theorem emit_commits (e : Event) (s : State) : (emit e s).commits = s.commits := rfl
@[simp] theorem emit_cfg (e : Event) (s : State) : (emit e s).cfg = s.cfg := rfl
@[simp] theorem emit_inputs (e : Event) (s : State) : (emit e s).inputs = s.inputs := rfl

@[simp] theorem postRotor_hallCur (s : State) : (postRotor s).hallCur = s.hallCur := rfl
@[simp] theorem postRotor_hallPrev (s : State) : (postRotor s).hallPrev = s.hallPrev := rfl
@[simp] theorem postRotor_countsElapsed (s : State) : (postRotor s).countsElapsed = s.countsElapsed := rfl
@[simp] theorem postRotor_hallOverflow (s : State) : (postRotor s).hallOverflow = s.hallOverflow := rfl
@[simp] theorem postRotor_velocity (s : State) : (postRotor s).velocity = s.velocity := rfl
@[simp] theorem postRotor_direction (s : State) : (postRotor s).direction = s.direction := rfl
@[simp] theorem postRotor_rotorPending (s : State) : (postRotor s).rotorPending = true := rfl
@[simp] theorem postRotor_semiAmplitude (s : State) : (postRotor s).semiAmplitude = s.semiAmplitude := rfl
@[simp] theorem postRotor_enabled (s : State) : (postRotor s).enabled = s.enabled := rfl
@[simp] theorem postRotor_drvFault (s : State) : (postRotor s).drvFault = s.drvFault := rfl
@[simp] theorem postRotor_commPending (s : State) : (postRotor s).commPending = s.commPending := rfl
@[simp] theorem postRotor_halted (s : State) : (postRotor s).halted = s.halted := rfl
@[simp] theorem postRotor_servoWidth (s : State) : (postRotor s).servoWidth = s.servoWidth := rfl
@[simp] theorem postRotor_servoPeriod (s : State) : (postRotor s).servoPeriod = s.servoPeriod := rfl
@[simp] theorem postRotor_servoOvfCount (s : State) : (postRotor s).servoOvfCount = s.servoOvfCount := rfl
@[simp] theorem postRotor_lastAmplitude (s : State) : (postRotor s).lastAmplitude = s.lastAmplitude := rfl
@[simp] theorem postRotor_staged (s : State) : (postRotor s).staged = s.staged := rfl
@[simp] theorem postRotor_active (s : State) : (postRotor s).active = s.active := rfl
@[simp] theorem postRotor_log (s : State) : (postRotor s).log = s.log := rfl
@[simp] theorem postRotor_responses (s : State) : (postRotor s).responses = s.responses := rfl
@[simp] theorem postRotor_commands (s : State) : (postRotor s).commands = s.commands := rfl
@[simp] theorem postRotor_commits (s : State) : (postRotor s).commits = s.commits := rfl
@[simp] theorem postRotor_cfg (s : State) : (postRotor s).cfg = s.cfg := rfl
@[simp] theorem postRotor_inputs (s : State) : (postRotor s).inputs = s.inputs := rfl

@[simp] theorem postComm_hallCur (s : State) : (postComm s).hallCur = s.hallCur := rfl
@[simp] theorem postComm_hallPrev (s : State) : (postComm s).hallPrev = s.hallPrev := rfl
@[simp] theorem postComm_countsElapsed (s : State) : (postComm s).countsElapsed = s.countsElapsed := rfl
@[simp] theorem postComm_hallOverflow (s : State) : (postComm s).hallOverflow = s.hallOverflow := rfl
@[simp] theorem postComm_velocity (s : State) : (postComm s).velocity = s.velocity := rfl
@[simp] theorem postComm_direction (s : State) : (postComm s).direction = s.direction := rfl
@[simp] theorem postComm_rotorPending (s : State) : (postComm s).rotorPending = s.rotorPending := rfl
@[simp] theorem postComm_semiAmplitude (s : State) : (postComm s).semiAmplitude = s.semiAmplitude := rfl
@[simp] theorem postComm_enabled (s : State) : (postComm s).enabled = s.enabled := rfl
@[simp] theorem postComm_drvFault (s : State) : (postComm s).drvFault = s.drvFault := rfl
@[simp] theorem postComm_commPending (s : State) : (postComm s).commPending = true := rfl
@[simp] theorem postComm_halted (s : State) : (postComm s).halted = s.halted := rfl
@[simp] theorem postComm_servoWidth (s : State) : (postComm s).servoWidth = s.servoWidth := rfl
@[simp] theorem postComm_servoPeriod (s : State) : (postComm s).servoPeriod = s.servoPeriod := rfl
@[simp] theorem postComm_servoOvfCount (s : State) : (postComm s).servoOvfCount = s.servoOvfCount := rfl
@[simp] theorem postComm_lastAmplitude (s : State) : (postComm s).lastAmplitude = s.lastAmplitude := rfl
@[simp] theorem postComm_staged (s : State) : (postComm s).staged = s.staged := rfl
@[simp] theorem postComm_active (s : State) : (postComm s).active = s.active := rfl
@[simp] theorem postComm_log (s : State) : (postComm s).log = s.log := rfl
@[simp] theorem postComm_responses (s : State) : (postComm s).responses = s.responses := rfl
@[simp] theorem postComm_commands (s : State) : (postComm s).commands = s.commands := rfl
@[simp] theorem postComm_commits (s : State) : (postComm s).commits = s.commits := rfl
@[simp] theorem postComm_cfg (s : State) : (postComm s).cfg = s.cfg := rfl
@[simp] theorem postComm_inputs (s : State) : (postComm s).inputs = s.inputs := rfl

@[simp] theorem consumeRotor_hallCur (s : State) : (consumeRotor s).hallCur = s.hallCur := rfl
@[simp] theorem consumeRotor_hallPrev (s : State) : (consumeRotor s).hallPrev = s.hallPrev := rfl
@[simp] theorem consumeRotor_countsElapsed (s : State) : (consumeRotor s).countsElapsed = s.countsElapsed := rfl
@[simp] theorem consumeRotor_hallOverflow (s : State) : (consumeRotor s).hallOverflow = s.hallOverflow := rfl
@[simp] theorem consumeRotor_velocity (s : State) : (consumeRotor s).velocity = s.velocity := rfl
@[simp] theorem consumeRotor_direction (s : State) : (consumeRotor s).direction = s.direction := rfl
@[simp] theorem consumeRotor_rotorPending (s : State) : (consumeRotor s).rotorPending = false := rfl
@[simp] theorem consumeRotor_semiAmplitude (s : State) : (consumeRotor s).semiAmplitude = s.semiAmplitude := rfl
@[simp] theorem consumeRotor_enabled (s : State) : (consumeRotor s).enabled = s.enabled := rfl
@[simp] theorem consumeRotor_drvFault (s : State) : (consumeRotor s).drvFault = s.drvFault := rfl
@[simp] theorem consumeRotor_commPending (s : State) : (consumeRotor s).commPending = s.commPending := rfl
@[simp] theorem consumeRotor_halted (s : State) : (consumeRotor s).halted = s.halted := rfl
@[simp] theorem consumeRotor_servoWidth (s : State) : (consumeRotor s).servoWidth = s.servoWidth := rfl
@[simp] theorem consumeRotor_servoPeriod (s : State) : (consumeRotor s).servoPeriod = s.servoPeriod := rfl
@[simp] theorem consumeRotor_servoOvfCount (s : State) : (consumeRotor s).servoOvfCount = s.servoOvfCount := rfl
@[simp] theorem consumeRotor_lastAmplitude (s : State) : (consumeRotor s).lastAmplitude = s.lastAmplitude := rfl
@[simp] theorem consumeRotor_staged (s : State) : (consumeRotor s).staged = s.staged := rfl
@[simp] theorem consumeRotor_active (s : State) : (consumeRotor s).active = s.active := rfl
@[simp] theorem consumeRotor_log (s : State) : (consumeRotor s).log = s.log := rfl
@[simp] theorem consumeRotor_responses (s : State) : (consumeRotor s).responses = s.responses := rfl
@[simp] theorem consumeRotor_commands (s : State) : (consumeRotor s).commands = s.commands := rfl
@[simp] theorem consumeRotor_commits (s : State) : (consumeRotor s).commits = s.commits := rfl
@[simp] theorem consumeRotor_cfg (s : State) : (consumeRotor s).cfg = s.cfg := rfl
@[simp] theorem consumeRotor_inputs (s : State) : (consumeRotor s).inputs = s.inputs := rfl

@[simp] theorem consumeComm_hallCur (s : State) : (consumeComm s).hallCur = s.hallCur := rfl
@[simp] theorem consumeComm_hallPrev (s : State) : (consumeComm s).hallPrev = s.hallPrev := rfl
@[simp] theorem consumeComm_countsElapsed (s : State) : (consumeComm s).countsElapsed = s.countsElapsed := rfl
@[simp] theorem consumeComm_hallOverflow (s : State) : (consumeComm s).hallOverflow = s.hallOverflow := rfl
@[simp] theorem consumeComm_velocity (s : State) : (consumeComm s).velocity = s.velocity := rfl
@[simp] theorem consumeComm_direction (s : State) : (consumeComm s).direction = s.direction := rfl
@[simp] theorem consumeComm_rotorPending (s : State) : (consumeComm s).rotorPending = s.rotorPending := rfl
@[simp] theorem consumeComm_semiAmplitude (s : State) : (consumeComm s).semiAmplitude = s.semiAmplitude := rfl
@[simp] theorem consumeComm_enabled (s : State) : (consumeComm s).enabled = s.enabled := rfl
@[simp] theorem consumeComm_drvFault (s : State) : (consumeComm s).drvFault = s.drvFault := rfl
@[simp] theorem consumeComm_commPending (s : State) : (consumeComm s).commPending = false := rfl
@[simp] theorem consumeComm_halted (s : State) : (consumeComm s).halted = s.halted := rfl
@[simp] theorem consumeComm_servoWidth (s : State) : (consumeComm s).servoWidth = s.servoWidth := rfl
@[simp] theorem consumeComm_servoPeriod (s : State) : (consumeComm s).servoPeriod = s.servoPeriod := rfl
@[simp] theorem consumeComm_servoOvfCount (s : State) : (consumeComm s).servoOvfCount = s.servoOvfCount := rfl
@[simp] theorem consumeComm_lastAmplitude (s : State) : (consumeComm s).lastAmplitude = s.lastAmplitude := rfl
@[simp] theorem consumeComm_staged (s : State) : (consumeComm s).staged = s.staged := rfl
@[simp] theorem consumeComm_active (s : State) : (consumeComm s).active = s.active := rfl
@[simp] theorem consumeComm_log (s : State) : (consumeComm s).log = s.log := rfl
@[simp] theorem consumeComm_responses (s : State) : (consumeComm s).responses = s.responses := rfl
@[simp] theorem consumeComm_commands (s : State) : (consumeComm s).commands = s.commands := rfl
@[simp] theorem consumeComm_commits (s : State) : (consumeComm s).commits = s.commits := rfl
@[simp] theorem consumeComm_cfg (s : State) : (consumeComm s).cfg = s.cfg := rfl
@[simp] theorem consumeComm_inputs (s : State) : (consumeComm s).inputs = s.inputs := rfl

@[simp] theorem stage_hallCur (p : Phase) (ch : Channel) (s : State) : (stage p ch s).hallCur = s.hallCur := rfl
@[simp] theorem stage_hallPrev (p : Phase) (ch : Channel) (s : State) : (stage p ch s).hallPrev = s.hallPrev := rfl
@[simp] theorem stage_countsElapsed (p : Phase) (ch : Channel) (s : State) :
    (stage p ch s).countsElapsed = s.countsElapsed := rfl
@[simp] theorem stage_hallOverflow (p : Phase) (ch : Channel) (s : State) :
    (stage p ch s).hallOverflow = s.hallOverflow := rfl
@[simp] theorem stage_velocity (p : Phase) (ch : Channel) (s : State) : (stage p ch s).velocity = s.velocity := rfl
@[simp] theorem stage_direction (p : Phase) (ch : Channel) (s : State) : (stage p ch s).direction = s.direction := rfl
@[simp] theorem stage_rotorPending (p : Phase) (ch : Channel) (s : State) :
    (stage p ch s).rotorPending = s.rotorPending := rfl
@[simp] theorem stage_semiAmplitude (p : Phase) (ch : Channel) (s : State) :
    (stage p ch s).semiAmplitude = s.semiAmplitude := rfl
@[simp] theorem stage_enabled (p : Phase) (ch : Channel) (s : State) : (stage p ch s).enabled = s.enabled := rfl
@[simp] theorem stage_drvFault (p : Phase) (ch : Channel) (s : State) : (stage p ch s).drvFault = s.drvFault := rfl
@[simp] theorem stage_commPending (p : Phase) (ch : Channel) (s : State) :
    (stage p ch s).commPending = s.commPending := rfl
@[simp] theorem stage_halted (p : Phase) (ch : Channel) (s : State) : (stage p ch s).halted = s.halted := rfl
@[simp] theorem stage_servoWidth (p : Phase) (ch : Channel) (s : State) :
    (stage p ch s).servoWidth = s.servoWidth := rfl
@[simp] theorem stage_servoPeriod (p : Phase) (ch : Channel) (s : State) :
    (stage p ch s).servoPeriod = s.servoPeriod := rfl
@[simp] theorem stage_servoOvfCount (p : Phase) (ch : Channel) (s : State) :
    (stage p ch s).servoOvfCount = s.servoOvfCount := rfl
@[simp] theorem stage_lastAmplitude (p : Phase) (ch : Channel) (s : State) :
    (stage p ch s).lastAmplitude = s.lastAmplitude := rfl
@[simp] theorem stage_staged (p : Phase) (ch : Channel) (s : State) : (stage p ch s).staged = s.staged.set p ch := rfl
@[simp] theorem stage_active (p : Phase) (ch : Channel) (s : State) : (stage p ch s).active = s.active := rfl
@[simp] theorem stage_log (p : Phase) (ch : Channel) (s : State) : (stage p ch s).log = s.log := rfl
@[simp] theorem stage_responses (p : Phase) (ch : Channel) (s : State) : (stage p ch s).responses = s.responses := rfl
@[simp] theorem stage_commands (p : Phase) (ch : Channel) (s : State) : (stage p ch s).commands = s.commands := rfl
@[simp] theorem stage_commits (p : Phase) (ch : Channel) (s : State) : (stage p ch s).commits = s.commits := rfl
@[simp] theorem stage_cfg (p : Phase) (ch : Channel) (s : State) : (stage p ch s).cfg = s.cfg := rfl
@[simp] theorem stage_inputs (p : Phase) (ch : Channel) (s : State) : (stage p ch s).inputs = s.inputs := rfl

@[simp] theorem stageAll_hallCur (t : PerPhase Channel) (s : State) : (stageAll t s).hallCur = s.hallCur := rfl
@[simp] theorem stageAll_hallPrev (t : PerPhase Channel) (s : State) : (stageAll t s).hallPrev = s.hallPrev := rfl
@[simp] theorem stageAll_countsElapsed (t : PerPhase Channel) (s : State) :
    (stageAll t s).countsElapsed = s.countsElapsed := rfl
@[simp] theorem stageAll_hallOverflow (t : PerPhase Channel) (s : State) :
    (stageAll t s).hallOverflow = s.hallOverflow := rfl
@[simp] theorem stageAll_velocity (t : PerPhase Channel) (s : State) : (stageAll t s).velocity = s.velocity := rfl
@[simp] theorem stageAll_direction (t : PerPhase Channel) (s : State) : (stageAll t s).direction = s.direction := rfl
@[simp] theorem stageAll_rotorPending (t : PerPhase Channel) (s : State) :
    (stageAll t s).rotorPending = s.rotorPending := rfl
@[simp] theorem stageAll_semiAmplitude (t : PerPhase Channel) (s : State) :
    (stageAll t s).semiAmplitude = s.semiAmplitude := rfl
@[simp] theorem stageAll_enabled (t : PerPhase Channel) (s : State) : (stageAll t s).enabled = s.enabled := rfl
@[simp] theorem stageAll_drvFault (t : PerPhase Channel) (s : State) : (stageAll t s).drvFault = s.drvFault := rfl
@[simp] theorem stageAll_commPending (t : PerPhase Channel) (s : State) :
    (stageAll t s).commPending = s.commPending := rfl
@[simp] theorem stageAll_halted (t : PerPhase Channel) (s : State) : (stageAll t s).halted = s.halted := rfl
@[simp] theorem stageAll_servoWidth (t : PerPhase Channel) (s : State) : (stageAll t s).servoWidth = s.servoWidth := rfl
@[simp] theorem stageAll_servoPeriod (t : PerPhase Channel) (s : State) :
    (stageAll t s).servoPeriod = s.servoPeriod := rfl
@[simp] theorem stageAll_servoOvfCount (t : PerPhase Channel) (s : State) :
    (stageAll t s).servoOvfCount = s.servoOvfCount := rfl
@[simp] theorem stageAll_lastAmplitude (t : PerPhase Channel) (s : State) :
    (stageAll t s).lastAmplitude = s.lastAmplitude := rfl
@[simp] theorem stageAll_staged (t : PerPhase Channel) (s : State) : (stageAll t s).staged = t := rfl
@[simp] theorem stageAll_active (t : PerPhase Channel) (s : State) : (stageAll t s).active = s.active := rfl
@[simp] theorem stageAll_log (t : PerPhase Channel) (s : State) : (stageAll t s).log = s.log := rfl
@[simp] theorem stageAll_responses (t : PerPhase Channel) (s : State) : (stageAll t s).responses = s.responses := rfl
@[simp] theorem stageAll_commands (t : PerPhase Channel) (s : State) : (stageAll t s).commands = s.commands := rfl
@[simp] theorem stageAll_commits (t : PerPhase Channel) (s : State) : (stageAll t s).commits = s.commits := rfl
@[simp] theorem stageAll_cfg (t : PerPhase Channel) (s : State) : (stageAll t s).cfg = s.cfg := rfl
@[simp] theorem stageAll_inputs (t : PerPhase Channel) (s : State) : (stageAll t s).inputs = s.inputs := rfl

@[simp] theorem commit_hallCur (s : State) : (commit s).hallCur = s.hallCur := rfl
@[simp] theorem commit_hallPrev (s : State) : (commit s).hallPrev = s.hallPrev := rfl
@[simp] theorem commit_countsElapsed (s : State) : (commit s).countsElapsed = s.countsElapsed := rfl
@[simp] theorem commit_hallOverflow (s : State) : (commit s).hallOverflow = s.hallOverflow := rfl
@[simp] theorem commit_velocity (s : State) : (commit s).velocity = s.velocity := rfl
@[simp] theorem commit_direction (s : State) : (commit s).direction = s.direction := rfl
@[simp] theorem commit_rotorPending (s : State) : (commit s).rotorPending = s.rotorPending := rfl
@[simp] theorem commit_semiAmplitude (s : State) : (commit s).semiAmplitude = s.semiAmplitude := rfl
@[simp] theorem commit_enabled (s : State) : (commit s).enabled = s.enabled := rfl
@[simp] theorem commit_drvFault (s : State) : (commit s).drvFault = s.drvFault := rfl
@[simp] theorem commit_commPending (s : State) : (commit s).commPending = s.commPending := rfl
@[simp] theorem commit_halted (s : State) : (commit s).halted = s.halted := rfl
@[simp] theorem commit_servoWidth (s : State) : (commit s).servoWidth = s.servoWidth := rfl
@[simp] theorem commit_servoPeriod (s : State) : (commit s).servoPeriod = s.servoPeriod := rfl
@[simp] theorem commit_servoOvfCount (s : State) : (commit s).servoOvfCount = s.servoOvfCount := rfl
@[simp] theorem commit_lastAmplitude (s : State) : (commit s).lastAmplitude = s.lastAmplitude := rfl
@[simp] theorem commit_staged (s : State) : (commit s).staged = s.staged := rfl
@[simp] theorem commit_active (s : State) : (commit s).active = s.staged := rfl
@[simp] theorem commit_log (s : State) : (commit s).log = s.log := rfl
@[simp] theorem commit_responses (s : State) : (commit s).responses = s.responses := rfl
@[simp] theorem commit_commands (s : State) : (commit s).commands = s.commands := rfl
@[simp] theorem commit_commits (s : State) : (commit s).commits = s.commits ++ [s.staged] := rfl
@[simp] theorem commit_cfg (s : State) : (commit s).cfg = s.cfg := rfl
@[simp] theorem commit_inputs (s : State) : (commit s).inputs = s.inputs := rfl

@[simp] theorem setVelocity_hallCur (v : Int) (d : Direction) (s : State) :
    (setVelocity v d s).hallCur = s.hallCur := rfl
@[simp] theorem setVelocity_hallPrev (v : Int) (d : Direction) (s : State) :
    (setVelocity v d s).hallPrev = s.hallPrev := rfl
@[simp] theorem setVelocity_countsElapsed (v : Int) (d : Direction) (s : State) :
    (setVelocity v d s).countsElapsed = s.countsElapsed := rfl
@[simp] theorem setVelocity_hallOverflow (v : Int) (d : Direction) (s : State) :
    (setVelocity v d s).hallOverflow = s.hallOverflow := rfl
@[simp] theorem setVelocity_velocity (v : Int) (d : Direction) (s : State) :
    (setVelocity v d s).velocity = narrow32 v := rfl
@[simp] theorem setVelocity_direction (v : Int) (d : Direction) (s : State) : (setVelocity v d s).direction = d := rfl
@[simp] theorem setVelocity_rotorPending (v : Int) (d : Direction) (s : State) :
    (setVelocity v d s).rotorPending = s.rotorPending := rfl
@[simp] theorem setVelocity_semiAmplitude (v : Int) (d : Direction) (s : State) :
    (setVelocity v d s).semiAmplitude = s.semiAmplitude := rfl
@[simp] theorem setVelocity_enabled (v : Int) (d : Direction) (s : State) :
    (setVelocity v d s).enabled = s.enabled := rfl
@[simp] theorem setVelocity_drvFault (v : Int) (d : Direction) (s : State) :
    (setVelocity v d s).drvFault = s.drvFault := rfl
@[simp] theorem setVelocity_commPending (v : Int) (d : Direction) (s : State) :
    (setVelocity v d s).commPending = s.commPending := rfl
@[simp] theorem setVelocity_halted (v : Int) (d : Direction) (s : State) : (setVelocity v d s).halted = s.halted := rfl
@[simp] theorem setVelocity_servoWidth (v : Int) (d : Direction) (s : State) :
    (setVelocity v d s).servoWidth = s.servoWidth := rfl
@[simp] theorem setVelocity_servoPeriod (v : Int) (d : Direction) (s : State) :
    (setVelocity v d s).servoPeriod = s.servoPeriod := rfl
@[simp] theorem setVelocity_servoOvfCount (v : Int) (d : Direction) (s : State) :
    (setVelocity v d s).servoOvfCount = s.servoOvfCount := rfl
@[simp] theorem setVelocity_lastAmplitude (v : Int) (d : Direction) (s : State) :
    (setVelocity v d s).lastAmplitude = s.lastAmplitude := rfl
@[simp] theorem setVelocity_staged (v : Int) (d : Direction) (s : State) : (setVelocity v d s).staged = s.staged := rfl
@[simp] theorem setVelocity_active (v : Int) (d : Direction) (s : State) : (setVelocity v d s).active = s.active := rfl
@[simp] theorem setVelocity_log (v : Int) (d : Direction) (s : State) : (setVelocity v d s).log = s.log := rfl
@[simp] theorem setVelocity_responses (v : Int) (d : Direction) (s : State) :
    (setVelocity v d s).responses = s.responses := rfl
@[simp] theorem setVelocity_commands (v : Int) (d : Direction) (s : State) :
    (setVelocity v d s).commands = s.commands := rfl
@[simp] theorem setVelocity_commits (v : Int) (d : Direction) (s : State) :
    (setVelocity v d s).commits = s.commits := rfl
@[simp] theorem setVelocity_cfg (v : Int) (d : Direction) (s : State) : (setVelocity v d s).cfg = s.cfg := rfl
@[simp] theorem setVelocity_inputs (v : Int) (d : Direction) (s : State) : (setVelocity v d s).inputs = s.inputs := rfl

@[simp] theorem throttleInvalid_hallCur (s : State) : (throttleInvalid s).hallCur = s.hallCur := rfl
@[simp] theorem throttleInvalid_hallPrev (s : State) : (throttleInvalid s).hallPrev = s.hallPrev := rfl
@[simp] theorem throttleInvalid_countsElapsed (s : State) : (throttleInvalid s).countsElapsed = s.countsElapsed := rfl
@[simp] theorem throttleInvalid_hallOverflow (s : State) : (throttleInvalid s).hallOverflow = s.hallOverflow := rfl
@[simp] theorem throttleInvalid_velocity (s : State) : (throttleInvalid s).velocity = s.velocity := rfl
@[simp] theorem throttleInvalid_direction (s : State) : (throttleInvalid s).direction = s.direction := rfl
@[simp] theorem throttleInvalid_rotorPending (s : State) : (throttleInvalid s).rotorPending = s.rotorPending := rfl
@[simp] theorem throttleInvalid_semiAmplitude (s : State) : (throttleInvalid s).semiAmplitude = s.semiAmplitude := rfl
@[simp] theorem throttleInvalid_enabled (s : State) : (throttleInvalid s).enabled = false := rfl
@[simp] theorem throttleInvalid_drvFault (s : State) : (throttleInvalid s).drvFault = s.drvFault := rfl
@[simp] theorem throttleInvalid_commPending (s : State) : (throttleInvalid s).commPending = true := rfl
@[simp] theorem throttleInvalid_halted (s : State) : (throttleInvalid s).halted = s.halted := rfl
@[simp] theorem throttleInvalid_servoWidth (s : State) : (throttleInvalid s).servoWidth = s.servoWidth := rfl
@[simp] theorem throttleInvalid_servoPeriod (s : State) : (throttleInvalid s).servoPeriod = s.servoPeriod := rfl
@[simp] theorem throttleInvalid_servoOvfCount (s : State) : (throttleInvalid s).servoOvfCount = s.servoOvfCount := rfl
@[simp] theorem throttleInvalid_lastAmplitude (s : State) : (throttleInvalid s).lastAmplitude = 0 := rfl
@[simp] theorem throttleInvalid_staged (s : State) : (throttleInvalid s).staged = s.staged := rfl
@[simp] theorem throttleInvalid_active (s : State) : (throttleInvalid s).active = s.active := rfl
@[simp] theorem throttleInvalid_log (s : State) : (throttleInvalid s).log = s.log := rfl
@[simp] theorem throttleInvalid_responses (s : State) : (throttleInvalid s).responses = s.responses := rfl
@[simp] theorem throttleInvalid_commands (s : State) : (throttleInvalid s).commands = s.commands := rfl
@[simp] theorem throttleInvalid_commits (s : State) : (throttleInvalid s).commits = s.commits := rfl
@[simp] theorem throttleInvalid_cfg (s : State) : (throttleInvalid s).cfg = s.cfg := rfl
@[simp] theorem throttleInvalid_inputs (s : State) : (throttleInvalid s).inputs = s.inputs := rfl

@[simp] theorem acceptEdge_hallCur (code : HallCode) (ticks : Width16) (s : State) :
    (acceptEdge code ticks s).hallCur = code := rfl
@[simp] theorem acceptEdge_hallPrev (code : HallCode) (ticks : Width16) (s : State) :
    (acceptEdge code ticks s).hallPrev = s.hallCur := rfl
@[simp] theorem acceptEdge_countsElapsed (code : HallCode) (ticks : Width16) (s : State) :
    (acceptEdge code ticks s).countsElapsed = if s.hallOverflow then BitVec.ofNat 16 s.cfg.countMax else ticks := rfl
@[simp] theorem acceptEdge_hallOverflow (code : HallCode) (ticks : Width16) (s : State) :
    (acceptEdge code ticks s).hallOverflow = false := rfl
@[simp] theorem acceptEdge_velocity (code : HallCode) (ticks : Width16) (s : State) :
    (acceptEdge code ticks s).velocity = s.velocity := rfl
@[simp] theorem acceptEdge_direction (code : HallCode) (ticks : Width16) (s : State) :
    (acceptEdge code ticks s).direction = s.direction := rfl
@[simp] theorem acceptEdge_rotorPending (code : HallCode) (ticks : Width16) (s : State) :
    (acceptEdge code ticks s).rotorPending = true := rfl
@[simp] theorem acceptEdge_semiAmplitude (code : HallCode) (ticks : Width16) (s : State) :
    (acceptEdge code ticks s).semiAmplitude = s.semiAmplitude := rfl
@[simp] theorem acceptEdge_enabled (code : HallCode) (ticks : Width16) (s : State) :
    (acceptEdge code ticks s).enabled = s.enabled := rfl
@[simp] theorem acceptEdge_drvFault (code : HallCode) (ticks : Width16) (s : State) :
    (acceptEdge code ticks s).drvFault = s.drvFault := rfl
@[simp] theorem acceptEdge_commPending (code : HallCode) (ticks : Width16) (s : State) :
    (acceptEdge code ticks s).commPending = true := rfl
@[simp] theorem acceptEdge_halted (code : HallCode) (ticks : Width16) (s : State) :
    (acceptEdge code ticks s).halted = s.halted := rfl
@[simp] theorem acceptEdge_servoWidth (code : HallCode) (ticks : Width16) (s : State) :
    (acceptEdge code ticks s).servoWidth = s.servoWidth := rfl
@[simp] theorem acceptEdge_servoPeriod (code : HallCode) (ticks : Width16) (s : State) :
    (acceptEdge code ticks s).servoPeriod = s.servoPeriod := rfl
@[simp] theorem acceptEdge_servoOvfCount (code : HallCode) (ticks : Width16) (s : State) :
    (acceptEdge code ticks s).servoOvfCount = s.servoOvfCount := rfl
@[simp] theorem acceptEdge_lastAmplitude (code : HallCode) (ticks : Width16) (s : State) :
    (acceptEdge code ticks s).lastAmplitude = s.lastAmplitude := rfl
@[simp] theorem acceptEdge_staged (code : HallCode) (ticks : Width16) (s : State) :
    (acceptEdge code ticks s).staged = s.staged := rfl
@[simp] theorem acceptEdge_active (code : HallCode) (ticks : Width16) (s : State) :
    (acceptEdge code ticks s).active = s.active := rfl
@[simp] theorem acceptEdge_log (code : HallCode) (ticks : Width16) (s : State) :
    (acceptEdge code ticks s).log = s.log := rfl
@[simp] theorem acceptEdge_responses (code : HallCode) (ticks : Width16) (s : State) :
    (acceptEdge code ticks s).responses = s.responses := rfl
@[simp] theorem acceptEdge_commands (code : HallCode) (ticks : Width16) (s : State) :
    (acceptEdge code ticks s).commands = s.commands := rfl
@[simp] theorem acceptEdge_commits (code : HallCode) (ticks : Width16) (s : State) :
    (acceptEdge code ticks s).commits = s.commits := rfl
@[simp] theorem acceptEdge_cfg (code : HallCode) (ticks : Width16) (s : State) :
    (acceptEdge code ticks s).cfg = s.cfg := rfl
@[simp] theorem acceptEdge_inputs (code : HallCode) (ticks : Width16) (s : State) :
    (acceptEdge code ticks s).inputs = s.inputs := rfl

@[simp] theorem throttleValid_hallCur (width period : Width16) (s : State) :
    (throttleValid width period s).hallCur = s.hallCur := rfl
@[simp] theorem throttleValid_hallPrev (width period : Width16) (s : State) :
    (throttleValid width period s).hallPrev = s.hallPrev := rfl
@[simp] theorem throttleValid_countsElapsed (width period : Width16) (s : State) :
    (throttleValid width period s).countsElapsed = s.countsElapsed := rfl
@[simp] theorem throttleValid_hallOverflow (width period : Width16) (s : State) :
    (throttleValid width period s).hallOverflow = s.hallOverflow := rfl
@[simp] theorem throttleValid_velocity (width period : Width16) (s : State) :
    (throttleValid width period s).velocity = s.velocity := rfl
@[simp] theorem throttleValid_direction (width period : Width16) (s : State) :
    (throttleValid width period s).direction = s.direction := rfl
@[simp] theorem throttleValid_rotorPending (width period : Width16) (s : State) :
    (throttleValid width period s).rotorPending = s.rotorPending := rfl
@[simp] theorem throttleValid_semiAmplitude (width period : Width16) (s : State) :
    (throttleValid width period s).semiAmplitude = narrow16 (throttleAmplitude s.cfg s.lastAmplitude width period) := rfl
@[simp] theorem throttleValid_enabled (width period : Width16) (s : State) :
    (throttleValid width period s).enabled = true := rfl
@[simp] theorem throttleValid_drvFault (width period : Width16) (s : State) :
    (throttleValid width period s).drvFault = s.drvFault := rfl
@[simp] theorem throttleValid_commPending (width period : Width16) (s : State) :
    (throttleValid width period s).commPending = true := rfl
@[simp] theorem throttleValid_halted (width period : Width16) (s : State) :
    (throttleValid width period s).halted = s.halted := rfl
@[simp] theorem throttleValid_servoWidth (width period : Width16) (s : State) :
    (throttleValid width period s).servoWidth = s.servoWidth := rfl
@[simp] theorem throttleValid_servoPeriod (width period : Width16) (s : State) :
    (throttleValid width period s).servoPeriod = s.servoPeriod := rfl
@[simp] theorem throttleValid_servoOvfCount (width period : Width16) (s : State) :
    (throttleValid width period s).servoOvfCount = 0 := rfl
@[simp] theorem throttleValid_lastAmplitude (width period : Width16) (s : State) :
    (throttleValid width period s).lastAmplitude = narrow16 (throttleAmplitude s.cfg s.lastAmplitude width period) := rfl
@[simp] theorem throttleValid_staged (width period : Width16) (s : State) :
    (throttleValid width period s).staged = s.staged := rfl
@[simp] theorem throttleValid_active (width period : Width16) (s : State) :
    (throttleValid width period s).active = s.active := rfl
@[simp] theorem throttleValid_log (width period : Width16) (s : State) :
    (throttleValid width period s).log = s.log := rfl
@[simp] theorem throttleValid_responses (width period : Width16) (s : State) :
    (throttleValid width period s).responses = s.responses := rfl
@[simp] theorem throttleValid_commands (width period : Width16) (s : State) :
    (throttleValid width period s).commands = s.commands := rfl
@[simp] theorem throttleValid_commits (width period : Width16) (s : State) :
    (throttleValid width period s).commits = s.commits := rfl
@[simp] theorem throttleValid_cfg (width period : Width16) (s : State) :
    (throttleValid width period s).cfg = s.cfg := rfl
@[simp] theorem throttleValid_inputs (width period : Width16) (s : State) :
    (throttleValid width period s).inputs = s.inputs := rfl

@[simp] theorem setHallOverflow_hallCur (b : Bool) (s : State) : (setHallOverflow b s).hallCur = s.hallCur := rfl
@[simp] theorem setHallOverflow_hallPrev (b : Bool) (s : State) : (setHallOverflow b s).hallPrev = s.hallPrev := rfl
@[simp] theorem setHallOverflow_countsElapsed (b : Bool) (s : State) :
    (setHallOverflow b s).countsElapsed = s.countsElapsed := rfl
@[simp] theorem setHallOverflow_hallOverflow (b : Bool) (s : State) : (setHallOverflow b s).hallOverflow = b := rfl
@[simp] theorem setHallOverflow_velocity (b : Bool) (s : State) : (setHallOverflow b s).velocity = s.velocity := rfl
@[simp] theorem setHallOverflow_direction (b : Bool) (s : State) : (setHallOverflow b s).direction = s.direction := rfl
@[simp] theorem setHallOverflow_rotorPending (b : Bool) (s : State) :
    (setHallOverflow b s).rotorPending = s.rotorPending := rfl
@[simp] theorem setHallOverflow_semiAmplitude (b : Bool) (s : State) :
    (setHallOverflow b s).semiAmplitude = s.semiAmplitude := rfl
@[simp] theorem setHallOverflow_enabled (b : Bool) (s : State) : (setHallOverflow b s).enabled = s.enabled := rfl
@[simp] theorem setHallOverflow_drvFault (b : Bool) (s : State) : (setHallOverflow b s).drvFault = s.drvFault := rfl
@[simp] theorem setHallOverflow_commPending (b : Bool) (s : State) :
    (setHallOverflow b s).commPending = s.commPending := rfl
@[simp] theorem setHallOverflow_halted (b : Bool) (s : State) : (setHallOverflow b s).halted = s.halted := rfl
@[simp] theorem setHallOverflow_servoWidth (b : Bool) (s : State) :
    (setHallOverflow b s).servoWidth = s.servoWidth := rfl
@[simp] theorem setHallOverflow_servoPeriod (b : Bool) (s : State) :
    (setHallOverflow b s).servoPeriod = s.servoPeriod := rfl
@[simp] theorem setHallOverflow_servoOvfCount (b : Bool) (s : State) :
    (setHallOverflow b s).servoOvfCount = s.servoOvfCount := rfl
@[simp] theorem setHallOverflow_lastAmplitude (b : Bool) (s : State) :
    (setHallOverflow b s).lastAmplitude = s.lastAmplitude := rfl
@[simp] theorem setHallOverflow_staged (b : Bool) (s : State) : (setHallOverflow b s).staged = s.staged := rfl
@[simp] theorem setHallOverflow_active (b : Bool) (s : State) : (setHallOverflow b s).active = s.active := rfl
@[simp] theorem setHallOverflow_log (b : Bool) (s : State) : (setHallOverflow b s).log = s.log := rfl
@[simp] theorem setHallOverflow_responses (b : Bool) (s : State) : (setHallOverflow b s).responses = s.responses := rfl
@[simp] theorem setHallOverflow_commands (b : Bool) (s : State) : (setHallOverflow b s).commands = s.commands := rfl
@[simp] theorem setHallOverflow_commits (b : Bool) (s : State) : (setHallOverflow b s).commits = s.commits := rfl
@[simp] theorem setHallOverflow_cfg (b : Bool) (s : State) : (setHallOverflow b s).cfg = s.cfg := rfl
@[simp] theorem setHallOverflow_inputs (b : Bool) (s : State) : (setHallOverflow b s).inputs = s.inputs := rfl

@[simp] theorem setEnabled_hallCur (b : Bool) (s : State) : (setEnabled b s).hallCur = s.hallCur := rfl
@[simp] theorem setEnabled_hallPrev (b : Bool) (s : State) : (setEnabled b s).hallPrev = s.hallPrev := rfl
@[simp] theorem setEnabled_countsElapsed (b : Bool) (s : State) :
    (setEnabled b s).countsElapsed = s.countsElapsed := rfl
@[simp] theorem setEnabled_hallOverflow (b : Bool) (s : State) : (setEnabled b s).hallOverflow = s.hallOverflow := rfl
@[simp] theorem setEnabled_velocity (b : Bool) (s : State) : (setEnabled b s).velocity = s.velocity := rfl
@[simp] theorem setEnabled_direction (b : Bool) (s : State) : (setEnabled b s).direction = s.direction := rfl
@[simp] theorem setEnabled_rotorPending (b : Bool) (s : State) : (setEnabled b s).rotorPending = s.rotorPending := rfl
@[simp] theorem setEnabled_semiAmplitude (b : Bool) (s : State) :
    (setEnabled b s).semiAmplitude = s.semiAmplitude := rfl
@[simp] theorem setEnabled_enabled (b : Bool) (s : State) : (setEnabled b s).enabled = b := rfl
@[simp] theorem setEnabled_drvFault (b : Bool) (s : State) : (setEnabled b s).drvFault = s.drvFault := rfl
@[simp] theorem setEnabled_commPending (b : Bool) (s : State) : (setEnabled b s).commPending = s.commPending := rfl
@[simp] theorem setEnabled_halted (b : Bool) (s : State) : (setEnabled b s).halted = s.halted := rfl
@[simp] theorem setEnabled_servoWidth (b : Bool) (s : State) : (setEnabled b s).servoWidth = s.servoWidth := rfl
@[simp] theorem setEnabled_servoPeriod (b : Bool) (s : State) : (setEnabled b s).servoPeriod = s.servoPeriod := rfl
@[simp] theorem setEnabled_servoOvfCount (b : Bool) (s : State) :
    (setEnabled b s).servoOvfCount = s.servoOvfCount := rfl
@[simp] theorem setEnabled_lastAmplitude (b : Bool) (s : State) :
    (setEnabled b s).lastAmplitude = s.lastAmplitude := rfl
@[simp] theorem setEnabled_staged (b : Bool) (s : State) : (setEnabled b s).staged = s.staged := rfl
@[simp] theorem setEnabled_active (b : Bool) (s : State) : (setEnabled b s).active = s.active := rfl
@[simp] theorem setEnabled_log (b : Bool) (s : State) : (setEnabled b s).log = s.log := rfl
@[simp] theorem setEnabled_responses (b : Bool) (s : State) : (setEnabled b s).responses = s.responses := rfl
@[simp] theorem setEnabled_commands (b : Bool) (s : State) : (setEnabled b s).commands = s.commands := rfl
@[simp] theorem setEnabled_commits (b : Bool) (s : State) : (setEnabled b s).commits = s.commits := rfl
@[simp] theorem setEnabled_cfg (b : Bool) (s : State) : (setEnabled b s).cfg = s.cfg := rfl
@[simp] theorem setEnabled_inputs (b : Bool) (s : State) : (setEnabled b s).inputs = s.inputs := rfl

@[simp] theorem setDrvFault_hallCur (b : Bool) (s : State) : (setDrvFault b s).hallCur = s.hallCur := rfl
@[simp] theorem setDrvFault_hallPrev (b : Bool) (s : State) : (setDrvFault b s).hallPrev = s.hallPrev := rfl
@[simp] theorem setDrvFault_countsElapsed (b : Bool) (s : State) :
    (setDrvFault b s).countsElapsed = s.countsElapsed := rfl
@[simp] theorem setDrvFault_hallOverflow (b : Bool) (s : State) : (setDrvFault b s).hallOverflow = s.hallOverflow := rfl
@[simp] theorem setDrvFault_velocity (b : Bool) (s : State) : (setDrvFault b s).velocity = s.velocity := rfl
@[simp] theorem setDrvFault_direction (b : Bool) (s : State) : (setDrvFault b s).direction = s.direction := rfl
@[simp] theorem setDrvFault_rotorPending (b : Bool) (s : State) : (setDrvFault b s).rotorPending = s.rotorPending := rfl
@[simp] theorem setDrvFault_semiAmplitude (b : Bool) (s : State) :
    (setDrvFault b s).semiAmplitude = s.semiAmplitude := rfl
@[simp] theorem setDrvFault_enabled (b : Bool) (s : State) : (setDrvFault b s).enabled = s.enabled := rfl
@[simp] theorem setDrvFault_drvFault (b : Bool) (s : State) : (setDrvFault b s).drvFault = b := rfl
@[simp] theorem setDrvFault_commPending (b : Bool) (s : State) : (setDrvFault b s).commPending = s.commPending := rfl
@[simp] theorem setDrvFault_halted (b : Bool) (s : State) : (setDrvFault b s).halted = s.halted := rfl
@[simp] theorem setDrvFault_servoWidth (b : Bool) (s : State) : (setDrvFault b s).servoWidth = s.servoWidth := rfl
@[simp] theorem setDrvFault_servoPeriod (b : Bool) (s : State) : (setDrvFault b s).servoPeriod = s.servoPeriod := rfl
@[simp] theorem setDrvFault_servoOvfCount (b : Bool) (s : State) :
    (setDrvFault b s).servoOvfCount = s.servoOvfCount := rfl
@[simp] theorem setDrvFault_lastAmplitude (b : Bool) (s : State) :
    (setDrvFault b s).lastAmplitude = s.lastAmplitude := rfl
@[simp] theorem setDrvFault_staged (b : Bool) (s : State) : (setDrvFault b s).staged = s.staged := rfl
@[simp] theorem setDrvFault_active (b : Bool) (s : State) : (setDrvFault b s).active = s.active := rfl
@[simp] theorem setDrvFault_log (b : Bool) (s : State) : (setDrvFault b s).log = s.log := rfl
@[simp] theorem setDrvFault_responses (b : Bool) (s : State) : (setDrvFault b s).responses = s.responses := rfl
@[simp] theorem setDrvFault_commands (b : Bool) (s : State) : (setDrvFault b s).commands = s.commands := rfl
@[simp] theorem setDrvFault_commits (b : Bool) (s : State) : (setDrvFault b s).commits = s.commits := rfl
@[simp] theorem setDrvFault_cfg (b : Bool) (s : State) : (setDrvFault b s).cfg = s.cfg := rfl
@[simp] theorem setDrvFault_inputs (b : Bool) (s : State) : (setDrvFault b s).inputs = s.inputs := rfl

@[simp] theorem latchHalted_hallCur (s : State) : (latchHalted s).hallCur = s.hallCur := rfl
@[simp] theorem latchHalted_hallPrev (s : State) : (latchHalted s).hallPrev = s.hallPrev := rfl
@[simp] theorem latchHalted_countsElapsed (s : State) : (latchHalted s).countsElapsed = s.countsElapsed := rfl
@[simp] theorem latchHalted_hallOverflow (s : State) : (latchHalted s).hallOverflow = s.hallOverflow := rfl
@[simp] theorem latchHalted_velocity (s : State) : (latchHalted s).velocity = s.velocity := rfl
@[simp] theorem latchHalted_direction (s : State) : (latchHalted s).direction = s.direction := rfl
@[simp] theorem latchHalted_rotorPending (s : State) : (latchHalted s).rotorPending = s.rotorPending := rfl
@[simp] theorem latchHalted_semiAmplitude (s : State) : (latchHalted s).semiAmplitude = s.semiAmplitude := rfl
@[simp] theorem latchHalted_enabled (s : State) : (latchHalted s).enabled = s.enabled := rfl
@[simp] theorem latchHalted_drvFault (s : State) : (latchHalted s).drvFault = s.drvFault := rfl
@[simp] theorem latchHalted_commPending (s : State) : (latchHalted s).commPending = s.commPending := rfl
@[simp] theorem latchHalted_halted (s : State) : (latchHalted s).halted = true := rfl
@[simp] theorem latchHalted_servoWidth (s : State) : (latchHalted s).servoWidth = s.servoWidth := rfl
@[simp] theorem latchHalted_servoPeriod (s : State) : (latchHalted s).servoPeriod = s.servoPeriod := rfl
@[simp] theorem latchHalted_servoOvfCount (s : State) : (latchHalted s).servoOvfCount = s.servoOvfCount := rfl
@[simp] theorem latchHalted_lastAmplitude (s : State) : (latchHalted s).lastAmplitude = s.lastAmplitude := rfl
@[simp] theorem latchHalted_staged (s : State) : (latchHalted s).staged = s.staged := rfl
@[simp] theorem latchHalted_active (s : State) : (latchHalted s).active = s.active := rfl
@[simp] theorem latchHalted_log (s : State) : (latchHalted s).log = s.log := rfl
@[simp] theorem latchHalted_responses (s : State) : (latchHalted s).responses = s.responses := rfl
@[simp] theorem latchHalted_commands (s : State) : (latchHalted s).commands = s.commands := rfl
@[simp] theorem latchHalted_commits (s : State) : (latchHalted s).commits = s.commits := rfl
@[simp] theorem latchHalted_cfg (s : State) : (latchHalted s).cfg = s.cfg := rfl
@[simp] theorem latchHalted_inputs (s : State) : (latchHalted s).inputs = s.inputs := rfl

@[simp] theorem setSemiAmplitude_hallCur (v : Width16Diff) (s : State) :
    (setSemiAmplitude v s).hallCur = s.hallCur := rfl
@[simp] theorem setSemiAmplitude_hallPrev (v : Width16Diff) (s : State) :
    (setSemiAmplitude v s).hallPrev = s.hallPrev := rfl
@[simp] theorem setSemiAmplitude_countsElapsed (v : Width16Diff) (s : State) :
    (setSemiAmplitude v s).countsElapsed = s.countsElapsed := rfl
@[simp] theorem setSemiAmplitude_hallOverflow (v : Width16Diff) (s : State) :
    (setSemiAmplitude v s).hallOverflow = s.hallOverflow := rfl
@[simp] theorem setSemiAmplitude_velocity (v : Width16Diff) (s : State) :
    (setSemiAmplitude v s).velocity = s.velocity := rfl
@[simp] theorem setSemiAmplitude_direction (v : Width16Diff) (s : State) :
    (setSemiAmplitude v s).direction = s.direction := rfl
@[simp] theorem setSemiAmplitude_rotorPending (v : Width16Diff) (s : State) :
    (setSemiAmplitude v s).rotorPending = s.rotorPending := rfl
@[simp] theorem setSemiAmplitude_semiAmplitude (v : Width16Diff) (s : State) :
    (setSemiAmplitude v s).semiAmplitude = v := rfl
@[simp] theorem setSemiAmplitude_enabled (v : Width16Diff) (s : State) :
    (setSemiAmplitude v s).enabled = s.enabled := rfl
@[simp] theorem setSemiAmplitude_drvFault (v : Width16Diff) (s : State) :
    (setSemiAmplitude v s).drvFault = s.drvFault := rfl
@[simp] theorem setSemiAmplitude_commPending (v : Width16Diff) (s : State) :
    (setSemiAmplitude v s).commPending = s.commPending := rfl
@[simp] theorem setSemiAmplitude_halted (v : Width16Diff) (s : State) : (setSemiAmplitude v s).halted = s.halted := rfl
@[simp] theorem setSemiAmplitude_servoWidth (v : Width16Diff) (s : State) :
    (setSemiAmplitude v s).servoWidth = s.servoWidth := rfl
@[simp] theorem setSemiAmplitude_servoPeriod (v : Width16Diff) (s : State) :
    (setSemiAmplitude v s).servoPeriod = s.servoPeriod := rfl
@[simp] theorem setSemiAmplitude_servoOvfCount (v : Width16Diff) (s : State) :
    (setSemiAmplitude v s).servoOvfCount = s.servoOvfCount := rfl
@[simp] theorem setSemiAmplitude_lastAmplitude (v : Width16Diff) (s : State) :
    (setSemiAmplitude v s).lastAmplitude = s.lastAmplitude := rfl
@[simp] theorem setSemiAmplitude_staged (v : Width16Diff) (s : State) : (setSemiAmplitude v s).staged = s.staged := rfl
@[simp] theorem setSemiAmplitude_active (v : Width16Diff) (s : State) : (setSemiAmplitude v s).active = s.active := rfl
@[simp] theorem setSemiAmplitude_log (v : Width16Diff) (s : State) : (setSemiAmplitude v s).log = s.log := rfl
@[simp] theorem setSemiAmplitude_responses (v : Width16Diff) (s : State) :
    (setSemiAmplitude v s).responses = s.responses := rfl
@[simp] theorem setSemiAmplitude_commands (v : Width16Diff) (s : State) :
    (setSemiAmplitude v s).commands = s.commands := rfl
@[simp] theorem setSemiAmplitude_commits (v : Width16Diff) (s : State) :
    (setSemiAmplitude v s).commits = s.commits := rfl
@[simp] theorem setSemiAmplitude_cfg (v : Width16Diff) (s : State) : (setSemiAmplitude v s).cfg = s.cfg := rfl
@[simp] theorem setSemiAmplitude_inputs (v : Width16Diff) (s : State) : (setSemiAmplitude v s).inputs = s.inputs := rfl

@[simp] theorem setServoWidth_hallCur (w : Width16) (s : State) : (setServoWidth w s).hallCur = s.hallCur := rfl
@[simp] theorem setServoWidth_hallPrev (w : Width16) (s : State) : (setServoWidth w s).hallPrev = s.hallPrev := rfl
@[simp] theorem setServoWidth_countsElapsed (w : Width16) (s : State) :
    (setServoWidth w s).countsElapsed = s.countsElapsed := rfl
@[simp] theorem setServoWidth_hallOverflow (w : Width16) (s : State) :
    (setServoWidth w s).hallOverflow = s.hallOverflow := rfl
@[simp] theorem setServoWidth_velocity (w : Width16) (s : State) : (setServoWidth w s).velocity = s.velocity := rfl
@[simp] theorem setServoWidth_direction (w : Width16) (s : State) : (setServoWidth w s).direction = s.direction := rfl
@[simp] theorem setServoWidth_rotorPending (w : Width16) (s : State) :
    (setServoWidth w s).rotorPending = s.rotorPending := rfl
@[simp] theorem setServoWidth_semiAmplitude (w : Width16) (s : State) :
    (setServoWidth w s).semiAmplitude = s.semiAmplitude := rfl
@[simp] theorem setServoWidth_enabled (w : Width16) (s : State) : (setServoWidth w s).enabled = s.enabled := rfl
@[simp] theorem setServoWidth_drvFault (w : Width16) (s : State) : (setServoWidth w s).drvFault = s.drvFault := rfl
@[simp] theorem setServoWidth_commPending (w : Width16) (s : State) :
    (setServoWidth w s).commPending = s.commPending := rfl
@[simp] theorem setServoWidth_halted (w : Width16) (s : State) : (setServoWidth w s).halted = s.halted := rfl
@[simp] theorem setServoWidth_servoWidth (w : Width16) (s : State) : (setServoWidth w s).servoWidth = w := rfl
@[simp] theorem setServoWidth_servoPeriod (w : Width16) (s : State) :
    (setServoWidth w s).servoPeriod = s.servoPeriod := rfl
@[simp] theorem setServoWidth_servoOvfCount (w : Width16) (s : State) :
    (setServoWidth w s).servoOvfCount = s.servoOvfCount := rfl
@[simp] theorem setServoWidth_lastAmplitude (w : Width16) (s : State) :
    (setServoWidth w s).lastAmplitude = s.lastAmplitude := rfl
@[simp] theorem setServoWidth_staged (w : Width16) (s : State) : (setServoWidth w s).staged = s.staged := rfl
@[simp] theorem setServoWidth_active (w : Width16) (s : State) : (setServoWidth w s).active = s.active := rfl
@[simp] theorem setServoWidth_log (w : Width16) (s : State) : (setServoWidth w s).log = s.log := rfl
@[simp] theorem setServoWidth_responses (w : Width16) (s : State) : (setServoWidth w s).responses = s.responses := rfl
@[simp] theorem setServoWidth_commands (w : Width16) (s : State) : (setServoWidth w s).commands = s.commands := rfl
@[simp] theorem setServoWidth_commits (w : Width16) (s : State) : (setServoWidth w s).commits = s.commits := rfl
@[simp] theorem setServoWidth_cfg (w : Width16) (s : State) : (setServoWidth w s).cfg = s.cfg := rfl
@[simp] theorem setServoWidth_inputs (w : Width16) (s : State) : (setServoWidth w s).inputs = s.inputs := rfl

@[simp] theorem setServoPeriod_hallCur (p : Width16) (s : State) : (setServoPeriod p s).hallCur = s.hallCur := rfl
@[simp] theorem setServoPeriod_hallPrev (p : Width16) (s : State) : (setServoPeriod p s).hallPrev = s.hallPrev := rfl
@[simp] theorem setServoPeriod_countsElapsed (p : Width16) (s : State) :
    (setServoPeriod p s).countsElapsed = s.countsElapsed := rfl
@[simp] theorem setServoPeriod_hallOverflow (p : Width16) (s : State) :
    (setServoPeriod p s).hallOverflow = s.hallOverflow := rfl
@[simp] theorem setServoPeriod_velocity (p : Width16) (s : State) : (setServoPeriod p s).velocity = s.velocity := rfl
@[simp] theorem setServoPeriod_direction (p : Width16) (s : State) : (setServoPeriod p s).direction = s.direction := rfl
@[simp] theorem setServoPeriod_rotorPending (p : Width16) (s : State) :
    (setServoPeriod p s).rotorPending = s.rotorPending := rfl
@[simp] theorem setServoPeriod_semiAmplitude (p : Width16) (s : State) :
    (setServoPeriod p s).semiAmplitude = s.semiAmplitude := rfl
@[simp] theorem setServoPeriod_enabled (p : Width16) (s : State) : (setServoPeriod p s).enabled = s.enabled := rfl
@[simp] theorem setServoPeriod_drvFault (p : Width16) (s : State) : (setServoPeriod p s).drvFault = s.drvFault := rfl
@[simp] theorem setServoPeriod_commPending (p : Width16) (s : State) :
    (setServoPeriod p s).commPending = s.commPending := rfl
@[simp] theorem setServoPeriod_halted (p : Width16) (s : State) : (setServoPeriod p s).halted = s.halted := rfl
@[simp] theorem setServoPeriod_servoWidth (p : Width16) (s : State) :
    (setServoPeriod p s).servoWidth = s.servoWidth := rfl
@[simp] theorem setServoPeriod_servoPeriod (p : Width16) (s : State) : (setServoPeriod p s).servoPeriod = p := rfl
@[simp] theorem setServoPeriod_servoOvfCount (p : Width16) (s : State) :
    (setServoPeriod p s).servoOvfCount = s.servoOvfCount := rfl
@[simp] theorem setServoPeriod_lastAmplitude (p : Width16) (s : State) :
    (setServoPeriod p s).lastAmplitude = s.lastAmplitude := rfl
@[simp] theorem setServoPeriod_staged (p : Width16) (s : State) : (setServoPeriod p s).staged = s.staged := rfl
@[simp] theorem setServoPeriod_active (p : Width16) (s : State) : (setServoPeriod p s).active = s.active := rfl
@[simp] theorem setServoPeriod_log (p : Width16) (s : State) : (setServoPeriod p s).log = s.log := rfl
@[simp] theorem setServoPeriod_responses (p : Width16) (s : State) : (setServoPeriod p s).responses = s.responses := rfl
@[simp] theorem setServoPeriod_commands (p : Width16) (s : State) : (setServoPeriod p s).commands = s.commands := rfl
@[simp] theorem setServoPeriod_commits (p : Width16) (s : State) : (setServoPeriod p s).commits = s.commits := rfl
@[simp] theorem setServoPeriod_cfg (p : Width16) (s : State) : (setServoPeriod p s).cfg = s.cfg := rfl
@[simp] theorem setServoPeriod_inputs (p : Width16) (s : State) : (setServoPeriod p s).inputs = s.inputs := rfl

@[simp] theorem setServoOvfCount_hallCur (n : BitVec 8) (s : State) : (setServoOvfCount n s).hallCur = s.hallCur := rfl
@[simp] theorem setServoOvfCount_hallPrev (n : BitVec 8) (s : State) :
    (setServoOvfCount n s).hallPrev = s.hallPrev := rfl
@[simp] theorem setServoOvfCount_countsElapsed (n : BitVec 8) (s : State) :
    (setServoOvfCount n s).countsElapsed = s.countsElapsed := rfl
@[simp] theorem setServoOvfCount_hallOverflow (n : BitVec 8) (s : State) :
    (setServoOvfCount n s).hallOverflow = s.hallOverflow := rfl
@[simp] theorem setServoOvfCount_velocity (n : BitVec 8) (s : State) :
    (setServoOvfCount n s).velocity = s.velocity := rfl
@[simp] theorem setServoOvfCount_direction (n : BitVec 8) (s : State) :
    (setServoOvfCount n s).direction = s.direction := rfl
@[simp] theorem setServoOvfCount_rotorPending (n : BitVec 8) (s : State) :
    (setServoOvfCount n s).rotorPending = s.rotorPending := rfl
@[simp] theorem setServoOvfCount_semiAmplitude (n : BitVec 8) (s : State) :
    (setServoOvfCount n s).semiAmplitude = s.semiAmplitude := rfl
@[simp] theorem setServoOvfCount_enabled (n : BitVec 8) (s : State) : (setServoOvfCount n s).enabled = s.enabled := rfl
@[simp] theorem setServoOvfCount_drvFault (n : BitVec 8) (s : State) :
    (setServoOvfCount n s).drvFault = s.drvFault := rfl
@[simp] theorem setServoOvfCount_commPending (n : BitVec 8) (s : State) :
    (setServoOvfCount n s).commPending = s.commPending := rfl
@[simp] theorem setServoOvfCount_halted (n : BitVec 8) (s : State) : (setServoOvfCount n s).halted = s.halted := rfl
@[simp] theorem setServoOvfCount_servoWidth (n : BitVec 8) (s : State) :
    (setServoOvfCount n s).servoWidth = s.servoWidth := rfl
@[simp] theorem setServoOvfCount_servoPeriod (n : BitVec 8) (s : State) :
    (setServoOvfCount n s).servoPeriod = s.servoPeriod := rfl
@[simp] theorem setServoOvfCount_servoOvfCount (n : BitVec 8) (s : State) :
    (setServoOvfCount n s).servoOvfCount = n := rfl
@[simp] theorem setServoOvfCount_lastAmplitude (n : BitVec 8) (s : State) :
    (setServoOvfCount n s).lastAmplitude = s.lastAmplitude := rfl
@[simp] theorem setServoOvfCount_staged (n : BitVec 8) (s : State) : (setServoOvfCount n s).staged = s.staged := rfl
@[simp] theorem setServoOvfCount_active (n : BitVec 8) (s : State) : (setServoOvfCount n s).active = s.active := rfl
@[simp] theorem setServoOvfCount_log (n : BitVec 8) (s : State) : (setServoOvfCount n s).log = s.log := rfl
@[simp] theorem setServoOvfCount_responses (n : BitVec 8) (s : State) :
    (setServoOvfCount n s).responses = s.responses := rfl
@[simp] theorem setServoOvfCount_commands (n : BitVec 8) (s : State) :
    (setServoOvfCount n s).commands = s.commands := rfl
@[simp] theorem setServoOvfCount_commits (n : BitVec 8) (s : State) : (setServoOvfCount n s).commits = s.commits := rfl
@[simp] theorem setServoOvfCount_cfg (n : BitVec 8) (s : State) : (setServoOvfCount n s).cfg = s.cfg := rfl
@[simp] theorem setServoOvfCount_inputs (n : BitVec 8) (s : State) : (setServoOvfCount n s).inputs = s.inputs := rfl

@[simp] theorem takeInput_hallCur (rest : List PortInput) (s : State) : (takeInput rest s).hallCur = s.hallCur := rfl
@[simp] theorem takeInput_hallPrev (rest : List PortInput) (s : State) : (takeInput rest s).hallPrev = s.hallPrev := rfl
@[simp] theorem takeInput_countsElapsed (rest : List PortInput) (s : State) :
    (takeInput rest s).countsElapsed = s.countsElapsed := rfl
@[simp] theorem takeInput_hallOverflow (rest : List PortInput) (s : State) :
    (takeInput rest s).hallOverflow = s.hallOverflow := rfl
@[simp] theorem takeInput_velocity (rest : List PortInput) (s : State) : (takeInput rest s).velocity = s.velocity := rfl
@[simp] theorem takeInput_direction (rest : List PortInput) (s : State) :
    (takeInput rest s).direction = s.direction := rfl
@[simp] theorem takeInput_rotorPending (rest : List PortInput) (s : State) :
    (takeInput rest s).rotorPending = s.rotorPending := rfl
@[simp] theorem takeInput_semiAmplitude (rest : List PortInput) (s : State) :
    (takeInput rest s).semiAmplitude = s.semiAmplitude := rfl
@[simp] theorem takeInput_enabled (rest : List PortInput) (s : State) : (takeInput rest s).enabled = s.enabled := rfl
@[simp] theorem takeInput_drvFault (rest : List PortInput) (s : State) : (takeInput rest s).drvFault = s.drvFault := rfl
@[simp] theorem takeInput_commPending (rest : List PortInput) (s : State) :
    (takeInput rest s).commPending = s.commPending := rfl
@[simp] theorem takeInput_halted (rest : List PortInput) (s : State) : (takeInput rest s).halted = s.halted := rfl
@[simp] theorem takeInput_servoWidth (rest : List PortInput) (s : State) :
    (takeInput rest s).servoWidth = s.servoWidth := rfl
@[simp] theorem takeInput_servoPeriod (rest : List PortInput) (s : State) :
    (takeInput rest s).servoPeriod = s.servoPeriod := rfl
@[simp] theorem takeInput_servoOvfCount (rest : List PortInput) (s : State) :
    (takeInput rest s).servoOvfCount = s.servoOvfCount := rfl
@[simp] theorem takeInput_lastAmplitude (rest : List PortInput) (s : State) :
    (takeInput rest s).lastAmplitude = s.lastAmplitude := rfl
@[simp] theorem takeInput_staged (rest : List PortInput) (s : State) : (takeInput rest s).staged = s.staged := rfl
@[simp] theorem takeInput_active (rest : List PortInput) (s : State) : (takeInput rest s).active = s.active := rfl
@[simp] theorem takeInput_log (rest : List PortInput) (s : State) : (takeInput rest s).log = s.log := rfl
@[simp] theorem takeInput_responses (rest : List PortInput) (s : State) :
    (takeInput rest s).responses = s.responses := rfl
@[simp] theorem takeInput_commands (rest : List PortInput) (s : State) : (takeInput rest s).commands = s.commands := rfl
@[simp] theorem takeInput_commits (rest : List PortInput) (s : State) : (takeInput rest s).commits = s.commits := rfl
@[simp] theorem takeInput_cfg (rest : List PortInput) (s : State) : (takeInput rest s).cfg = s.cfg := rfl
@[simp] theorem takeInput_inputs (rest : List PortInput) (s : State) : (takeInput rest s).inputs = rest := rfl

@[simp] theorem acceptWord_hallCur (w : Word) (rest : List PortInput) (s : State) :
    (acceptWord w rest s).hallCur = s.hallCur := rfl
@[simp] theorem acceptWord_hallPrev (w : Word) (rest : List PortInput) (s : State) :
    (acceptWord w rest s).hallPrev = s.hallPrev := rfl
@[simp] theorem acceptWord_countsElapsed (w : Word) (rest : List PortInput) (s : State) :
    (acceptWord w rest s).countsElapsed = s.countsElapsed := rfl
@[simp] theorem acceptWord_hallOverflow (w : Word) (rest : List PortInput) (s : State) :
    (acceptWord w rest s).hallOverflow = s.hallOverflow := rfl
@[simp] theorem acceptWord_velocity (w : Word) (rest : List PortInput) (s : State) :
    (acceptWord w rest s).velocity = s.velocity := rfl
@[simp] theorem acceptWord_direction (w : Word) (rest : List PortInput) (s : State) :
    (acceptWord w rest s).direction = s.direction := rfl
@[simp] theorem acceptWord_rotorPending (w : Word) (rest : List PortInput) (s : State) :
    (acceptWord w rest s).rotorPending = s.rotorPending := rfl
@[simp] theorem acceptWord_semiAmplitude (w : Word) (rest : List PortInput) (s : State) :
    (acceptWord w rest s).semiAmplitude = s.semiAmplitude := rfl
@[simp] theorem acceptWord_enabled (w : Word) (rest : List PortInput) (s : State) :
    (acceptWord w rest s).enabled = s.enabled := rfl
@[simp] theorem acceptWord_drvFault (w : Word) (rest : List PortInput) (s : State) :
    (acceptWord w rest s).drvFault = s.drvFault := rfl
@[simp] theorem acceptWord_commPending (w : Word) (rest : List PortInput) (s : State) :
    (acceptWord w rest s).commPending = s.commPending := rfl
@[simp] theorem acceptWord_halted (w : Word) (rest : List PortInput) (s : State) :
    (acceptWord w rest s).halted = s.halted := rfl
@[simp] theorem acceptWord_servoWidth (w : Word) (rest : List PortInput) (s : State) :
    (acceptWord w rest s).servoWidth = s.servoWidth := rfl
@[simp] theorem acceptWord_servoPeriod (w : Word) (rest : List PortInput) (s : State) :
    (acceptWord w rest s).servoPeriod = s.servoPeriod := rfl
@[simp] theorem acceptWord_servoOvfCount (w : Word) (rest : List PortInput) (s : State) :
    (acceptWord w rest s).servoOvfCount = s.servoOvfCount := rfl
@[simp] theorem acceptWord_lastAmplitude (w : Word) (rest : List PortInput) (s : State) :
    (acceptWord w rest s).lastAmplitude = s.lastAmplitude := rfl
@[simp] theorem acceptWord_staged (w : Word) (rest : List PortInput) (s : State) :
    (acceptWord w rest s).staged = s.staged := rfl
@[simp] theorem acceptWord_active (w : Word) (rest : List PortInput) (s : State) :
    (acceptWord w rest s).active = s.active := rfl
@[simp] theorem acceptWord_log (w : Word) (rest : List PortInput) (s : State) : (acceptWord w rest s).log = s.log := rfl
@[simp] theorem acceptWord_responses (w : Word) (rest : List PortInput) (s : State) :
    (acceptWord w rest s).responses = s.responses := rfl
@[simp] theorem acceptWord_commands (w : Word) (rest : List PortInput) (s : State) :
    (acceptWord w rest s).commands = s.commands ++ [w] := rfl
@[simp] theorem acceptWord_commits (w : Word) (rest : List PortInput) (s : State) :
    (acceptWord w rest s).commits = s.commits := rfl
@[simp] theorem acceptWord_cfg (w : Word) (rest : List PortInput) (s : State) : (acceptWord w rest s).cfg = s.cfg := rfl
@[simp] theorem acceptWord_inputs (w : Word) (rest : List PortInput) (s : State) :
    (acceptWord w rest s).inputs = rest := rfl

end Sys2Proof.Machine
end

