-- ==== Sys2Proof/Laws/Ops.lean ====
section
/-! SUPPORT. What each shared operation can do, said once: `operate`, the halt entry, reset, the conditional updates, and
how a word and an input are run. -/

namespace Sys2Proof.Machine

theorem operate_running {s : State} (hw : s.cfg.wf = true) (hh : s.halted = false) (rule : State → Result) :
    operate s rule = rule s := by simp [operate, hw, hh]

theorem operate_halted {s : State} (hw : s.cfg.wf = true) (hh : s.halted = true) (rule : State → Result) :
    operate s rule = .next (respond .halted 0 s) := by simp [operate, hw, hh, answer]

theorem operate_illFormed {s : State} (hw : s.cfg.wf = false) (rule : State → Result) :
    operate s rule = .refused .illFormedConfig := by simp [operate, hw]

/-- If an operation answers a next state, the configuration is well-formed, and either the block was halted and only
the response HALTED was added, or it was running and the rule answered that state. -/
theorem operate_next {s t : State} {rule : State → Result} (h : operate s rule = .next t) :
    s.cfg.wf = true ∧
      ((s.halted = true ∧ t = respond .halted 0 s) ∨ (s.halted = false ∧ rule s = .next t)) := by
  unfold operate at h
  split at h
  · rename_i hw
    split at h
    · rename_i hh
      exact ⟨hw, .inl ⟨hh, by simpa [answer] using h.symm⟩⟩
    · rename_i hh
      exact ⟨hw, .inr ⟨by simpa using hh, h⟩⟩
  · cases h

theorem answer_next {st : Status} {v : Word} {s t : State} : answer st v s = .next t ↔ t = respond st v s := by
  constructor
  · intro h; simpa [answer] using h.symm
  · rintro rfl; rfl

/-- The halt entry sets the latch, logs the value, answers HALTED and writes nothing else. -/
theorem raiseAmplitudePrecondition_eq (v : Width16Diff) (s : State) :
    raiseAmplitudePrecondition v s =
      .next { s with
        halted := true
        log := s.log ++ [.halt v]
        responses := s.responses ++ [{ status := .halted, value := 0 }] } := rfl

/-- Reset brings every element to its reset value; the configuration and what is still presented are kept. -/
theorem resetBlock_eq (s : State) : resetBlock s = { State.reset with cfg := s.cfg, inputs := s.inputs } := rfl

/-- An iteration of the rotor sequencer writes velocity, direction and the log, and nothing else. -/
theorem rotorUpdate_cases (s : State) :
    (∃ v d, rotorUpdate s = setVelocity v d s) ∨
    (∃ v d e, rotorUpdate s = setVelocity v d (emit e s)) := by
  unfold rotorUpdate
  split
  · exact .inl ⟨_, _, rfl⟩
  · split
    · exact .inr ⟨_, _, _, rfl⟩
    · exact .inl ⟨_, _, rfl⟩

theorem logAngle_some (a : Angle16) (s : State) : logAngle (some a) s = s := rfl

theorem logAngle_none (s : State) : logAngle none s = emit .angleFault s := rfl

/-- An iteration of the commutation sequencer stages one pattern, commits it, and logs an absent angle. -/
theorem commUpdate_eq (angle : Option Angle16) (s : State) :
    commUpdate angle s =
      { s with
        staged := commPattern s angle
        active := commPattern s angle
        commits := s.commits ++ [commPattern s angle]
        log := if angle.isNone then s.log ++ [.angleFault] else s.log } := by
  cases angle <;> rfl

/-- The throttle update takes exactly one of its two branches. -/
theorem throttleUpdate_cases (width period : Width16) (valid : Bool) (s : State) :
    ((valid && widthAccepted s.cfg width) = true ∧ throttleUpdate width period valid s = throttleValid width period s) ∨
    ((valid && widthAccepted s.cfg width) = false ∧ throttleUpdate width period valid s = throttleInvalid s) := by
  unfold throttleUpdate
  cases h : valid && widthAccepted s.cfg width <;> simp

/-- The watchdog counts, and at the limit takes the invalid branch. -/
theorem servoOverflow_cases (s : State) :
    (s.cfg.servoOvfLimit ≤ (satInc8 s.servoOvfCount).toNat ∧
      servoOverflow s = throttleInvalid (setServoOvfCount (satInc8 s.servoOvfCount) s)) ∨
    ((satInc8 s.servoOvfCount).toNat < s.cfg.servoOvfLimit ∧
      servoOverflow s = (setServoOvfCount (satInc8 s.servoOvfCount) s)) := by
  unfold servoOverflow
  by_cases h : s.cfg.servoOvfLimit ≤ (satInc8 s.servoOvfCount).toNat
  · exact .inl ⟨h, by simp [h]⟩
  · exact .inr ⟨by omega, by simp [h]⟩

/-- If a step answers a next state, the configuration is well-formed and either nothing was presented and nothing
changed, or a command word was run, or reset was asserted. -/
theorem step_next {s t : State} (h : step s = .next t) :
    s.cfg.wf = true ∧
      ((s.inputs = [] ∧ t = s) ∨
        (∃ w rest, s.inputs = .command w :: rest ∧ runWord w (acceptWord w rest s) = .next t) ∨
        (∃ p rest, s.inputs = .reset p :: rest ∧ t = resetBlock (takeInput rest s))) := by
  unfold step at h
  split at h
  · rename_i hw
    refine ⟨hw, ?_⟩
    split at h
    · rename_i hi
      exact .inl ⟨hi, by simpa using h.symm⟩
    · rename_i x rest hi
      cases x with
      | command w => exact .inr (.inl ⟨w, rest, hi, h⟩)
      | reset p => exact .inr (.inr ⟨p, rest, hi, by simpa [runInput] using h.symm⟩)
  · cases h

end Sys2Proof.Machine
end

