-- ==== Sys2Proof/Laws/Exec.lean ====
section
/-! SUPPORT. What an operation can do, said once: a halted block only answers HALTED, and a running block takes exactly
the transition that the operation's rule names, written with the shared updates. -/

namespace Sys2Proof.Machine

/-- What operation `i` may turn the running state `s` into. -/
def Effect (i : Instr) (s t : State) : Prop :=
  match i with
  | .hallEdge code ticks =>
    (code = s.hallCur ∧ t = respond .ok 0 s) ∨ (code ≠ s.hallCur ∧ t = respond .ok 0 (acceptEdge code ticks s))
  | .hallOvf => t = respond .ok 0 (setHallOverflow true s)
  | .rotorStep =>
    (s.rotorPending = false ∧ t = respond .fail 0 s) ∨
    (s.rotorPending = true ∧ t = respond .ok 0 (rotorUpdate (consumeRotor s)))
  | .computeAngle live =>
    (∃ a, computeAngle s.cfg s.hallCur live = .ok (some a) ∧ t = respond .ok (valueU16 a) s) ∨
    (computeAngle s.cfg s.hallCur live = .ok none ∧ t = respond .fail 0 s)
  | .computeVelocity now =>
    ((s.countsElapsed = 0 ∨ s.direction = .unknown) ∧ t = respond .fail 0 s) ∨
    (¬ (s.countsElapsed = 0 ∨ s.direction = .unknown) ∧ t = respond .ok (queriedVelocity now s) s)
  | .signalChange => t = respond .ok 0 (postComm s)
  | .writeAmplitude value =>
    (absOf (s16 value) > s.cfg.maxAmp ∧ t = respond .halted 0 (emit (.halt value) (latchHalted s))) ∨
    (¬ absOf (s16 value) > s.cfg.maxAmp ∧ t = respond .ok 0 (setSemiAmplitude value s))
  | .getMaxAmplitude => t = respond .ok (valueS16 (narrow16 s.cfg.maxAmp)) s
  | .commStep live =>
    (s.commPending = false ∧ t = respond .fail 0 s) ∨
    (s.commPending = true ∧ ∃ angle, computeAngle s.cfg s.hallCur live = .ok angle ∧
      t = respond .ok 0 (commUpdate angle (consumeComm s)))
  | .setEnable en => t = respond .ok 0 (setEnabled en s)
  | .servoWidth width => t = respond .ok 0 (setServoWidth width s)
  | .servoPeriod period valid =>
    t = respond .ok 0 (throttleUpdate s.servoWidth period valid (setServoPeriod period s))
  | .servoOvf => t = respond .ok 0 (servoOverflow s)
  | .getPeriod => t = respond .ok (valueU16 (BitVec.ofNat 16 s.cfg.pwmPeriod)) s
  | .writeChannel phase width enabled => t = respond .ok 0 (stage phase { width := width, enabled := enabled } s)
  | .syncModes => t = respond .ok 0 (commit s)
  | .faultPoll fault => t = respond .ok 0 (postComm (setDrvFault fault s))

/-- If `exec` answers a next state, the configuration is well-formed, and either the block was halted and only the
answer HALTED was added, or it was running and the transition is the operation's effect. -/
theorem exec_next {i : Instr} {s t : State} (h : exec i s = .next t) :
    s.cfg.wf = true ∧
      ((s.halted = true ∧ t = respond .halted 0 s) ∨ (s.halted = false ∧ Effect i s t)) := by
  cases i with
  | hallEdge code ticks =>
    simp only [exec, execHallEdge] at h
    obtain ⟨hw, h⟩ := operate_next h
    refine ⟨hw, h.imp id (And.imp id fun h => ?_)⟩
    split at h <;> rename_i hc
    · exact .inl ⟨hc, answer_next.mp h⟩
    · exact .inr ⟨hc, answer_next.mp h⟩
  | rotorStep =>
    simp only [exec, execRotorStep] at h
    obtain ⟨hw, h⟩ := operate_next h
    refine ⟨hw, h.imp id (And.imp id fun h => ?_)⟩
    split at h <;> rename_i hc
    · exact .inr ⟨hc, answer_next.mp h⟩
    · exact .inl ⟨by simpa using hc, answer_next.mp h⟩
  | computeAngle live =>
    simp only [exec, execComputeAngle] at h
    obtain ⟨hw, h⟩ := operate_next h
    refine ⟨hw, h.imp id (And.imp id fun h => ?_)⟩
    split at h <;> rename_i hc
    · exact .inl ⟨_, hc, answer_next.mp h⟩
    · exact .inr ⟨hc, answer_next.mp h⟩
    · cases h
  | computeVelocity now =>
    simp only [exec, execComputeVelocity] at h
    obtain ⟨hw, h⟩ := operate_next h
    refine ⟨hw, h.imp id (And.imp id fun h => ?_)⟩
    split at h <;> rename_i hc
    · exact .inl ⟨hc, answer_next.mp h⟩
    · exact .inr ⟨hc, answer_next.mp h⟩
  | writeAmplitude value =>
    simp only [exec, execWriteAmplitude] at h
    obtain ⟨hw, h⟩ := operate_next h
    refine ⟨hw, h.imp id (And.imp id fun h => ?_)⟩
    split at h <;> rename_i hc
    · exact .inl ⟨hc, answer_next.mp h⟩
    · exact .inr ⟨hc, answer_next.mp h⟩
  | commStep live =>
    simp only [exec, execCommStep] at h
    obtain ⟨hw, h⟩ := operate_next h
    refine ⟨hw, h.imp id (And.imp id fun h => ?_)⟩
    split at h <;> rename_i hc
    · split at h <;> rename_i ha
      · exact .inr ⟨hc, _, ha, answer_next.mp h⟩
      · cases h
    · exact .inl ⟨by simpa using hc, answer_next.mp h⟩
  | _ =>
    simp only [exec, execHallOvf, execSignalChange, execGetMaxAmplitude, execSetEnable, execServoWidth, execServoPeriod,
      execServoOvf, execGetPeriod, execWriteChannel, execSyncModes, execFaultPoll] at h
    obtain ⟨hw, h⟩ := operate_next h
    exact ⟨hw, h.imp id (And.imp id answer_next.mp)⟩

/-- A halted block answers HALTED to every operation and changes nothing else. -/
theorem exec_halted {s : State} (hw : s.cfg.wf = true) (hh : s.halted = true) (i : Instr) :
    exec i s = .next (respond .halted 0 s) := by
  cases i <;> simp only [exec, execHallEdge, execHallOvf, execRotorStep, execComputeAngle, execComputeVelocity, execSignalChange,
    execWriteAmplitude, execGetMaxAmplitude, execCommStep, execSetEnable, execServoWidth, execServoPeriod, execServoOvf,
    execGetPeriod, execWriteChannel, execSyncModes, execFaultPoll] <;> exact operate_halted hw hh _

/-- The other direction of `exec_next` for a running block: every effect of the operation is answered. -/
theorem exec_of_effect {i : Instr} {s t : State} (hw : s.cfg.wf = true) (hh : s.halted = false) (h : Effect i s t) :
    exec i s = .next t := by
  cases i <;> simp only [exec, execHallEdge, execHallOvf, execRotorStep, execComputeAngle, execComputeVelocity, execSignalChange,
    execWriteAmplitude, execGetMaxAmplitude, execCommStep, execSetEnable, execServoWidth, execServoPeriod, execServoOvf,
    execGetPeriod, execWriteChannel, execSyncModes, execFaultPoll] <;> rw [operate_running hw hh]
  case hallEdge => rcases h with ⟨hc, rfl⟩ | ⟨hc, rfl⟩ <;> simp [hc, answer]
  case rotorStep => rcases h with ⟨hc, rfl⟩ | ⟨hc, rfl⟩ <;> simp [hc, answer]
  case computeAngle => rcases h with ⟨a, hc, rfl⟩ | ⟨hc, rfl⟩ <;> simp [hc, answer]
  case computeVelocity =>
    rcases h with ⟨hc, rfl⟩ | ⟨hc, rfl⟩
    · rw [if_pos hc]; rfl
    · rw [if_neg hc]; rfl
  case writeAmplitude =>
    rcases h with ⟨hc, rfl⟩ | ⟨hc, rfl⟩
    · rw [if_pos hc]; rfl
    · rw [if_neg hc]; rfl
  case commStep =>
    rcases h with ⟨hc, rfl⟩ | ⟨hc, a, ha, rfl⟩
    · simp [hc, answer]
    · simp [hc, ha, answer]
  all_goals exact answer_next.mpr h

/-- What a step can do, said once: nothing with nothing presented; a word taken and only answered, because the block is
halted or the word illegal; the effect of the instruction that the word spells; or a reset. -/
theorem step_effect {s t : State} (h : step s = .next t) :
    s.cfg.wf = true ∧
      ((s.inputs = [] ∧ t = s) ∨
        (∃ w rest st, s.inputs = .command w :: rest ∧ t = respond st 0 (acceptWord w rest s) ∧
          (s.halted = true ∨ ∃ e, decode w = .error e)) ∨
        (∃ w rest i, s.inputs = .command w :: rest ∧ decode w = .ok i ∧ s.halted = false ∧
          Effect i (acceptWord w rest s) t) ∨
        ∃ p rest, s.inputs = .reset p :: rest ∧ t = resetBlock (takeInput rest s)) := by
  obtain ⟨hw, h | ⟨w, rest, hi, h⟩ | h⟩ := step_next h
  · exact ⟨hw, .inl h⟩
  · refine ⟨hw, .inr ?_⟩
    unfold runWord at h
    split at h
    · rename_i hh
      exact .inl ⟨w, rest, _, hi, answer_next.mp h, .inl hh⟩
    · rename_i hh
      split at h
      · rename_i i hd
        obtain ⟨_, ⟨hh', _⟩ | ⟨_, he⟩⟩ := exec_next h
        · exact absurd hh' hh
        · exact .inr (.inl ⟨w, rest, i, hi, hd, by simpa using hh, he⟩)
      · rename_i e hd
        obtain ⟨_, ⟨_, ht⟩ | ⟨_, ht⟩⟩ := operate_next h
        · exact .inl ⟨w, rest, _, hi, ht, .inr ⟨e, hd⟩⟩
        · exact .inl ⟨w, rest, _, hi, answer_next.mp ht, .inr ⟨e, hd⟩⟩
  · exact ⟨hw, .inr (.inr (.inr h))⟩

/-- The instruction that a step takes is the one its word spells. -/
theorem nextInstr_of_decode {s : State} {w : Word} {rest : List PortInput} {i : Instr}
    (hi : s.inputs = .command w :: rest) (hd : decode w = .ok i) : s.nextInstr = some i := by
  simp [State.nextInstr, instrOf, hi, hd]

@[simp] theorem runSteps_zero (s : State) : runSteps 0 s = .next s := rfl

theorem runSteps_add_one (k : Nat) (s : State) : runSteps (k + 1) s = andThen (step s) (runSteps k) := rfl

@[simp] theorem andThen_next (s : State) (f : State → Result) : andThen (.next s) f = f s := rfl

/-- What comes after a first part answers a next state only if that part did. -/
theorem andThen_eq_next {r : Result} {f : State → Result} {t : State} (h : andThen r f = .next t) :
    ∃ u, r = .next u ∧ f u = .next t := by
  cases r with
  | next u => exact ⟨u, rfl, h⟩
  | fault e => cases h
  | refused e => cases h

/-- One more step at the end of a run. -/
theorem runSteps_snoc {k : Nat} {s t u : State} (h : runSteps k s = .next t) (ht : step t = .next u) :
    runSteps (k + 1) s = .next u := by
  induction k generalizing s with
  | zero =>
    cases h
    rw [runSteps_add_one, ht, andThen_next, runSteps_zero]
  | succ k ih =>
    obtain ⟨x, hx, h⟩ := andThen_eq_next h
    rw [runSteps_add_one, hx, andThen_next]
    exact ih h

end Sys2Proof.Machine
end

