-- ==== Sys2Proof/Laws/Math.lean ====
section
/-! SUPPORT. One lemma per arithmetic function: what its value is bounded by. -/

namespace Sys2Proof.Machine

theorem clamp_bounds {x lo hi : Int} (h : lo ≤ hi) : lo ≤ clamp x lo hi ∧ clamp x lo hi ≤ hi := by
  unfold clamp; split <;> [omega; (split <;> omega)]

theorem clamp_of_mem {x lo hi : Int} (h1 : lo ≤ x) (h2 : x ≤ hi) : clamp x lo hi = x := by
  unfold clamp; rw [if_neg (by omega), if_neg (by omega)]

theorem absOf_nonneg (x : Int) : 0 ≤ absOf x := by unfold absOf; split <;> omega

theorem absOf_le {x b : Int} : absOf x ≤ b ↔ -b ≤ x ∧ x ≤ b := by unfold absOf; split <;> omega

/-- The average of two integers lies between them. -/
theorem average_mem {a b : Int} (h : a ≤ b) : a ≤ average a b ∧ average a b ≤ b := by
  have h0 : Int.tdiv (b - a) 2 = (b - a) / 2 := Int.tdiv_eq_ediv_of_nonneg (by omega)
  simp only [average, tdiv, h0]; omega

theorem satInc8_toNat (n : BitVec 8) : (satInc8 n).toNat = min (n.toNat + 1) 255 := by
  unfold satInc8
  rw [BitVec.toNat_ofNat]
  exact Nat.mod_eq_of_lt (by omega)

theorem wrap16_toNat (x : Int) : ((wrap16 x).toNat : Int) = x % 65536 := by
  have := Int.emod_nonneg x (b := 65536) (by decide)
  simp [wrap16, BitVec.toNat_ofInt, this]

end Sys2Proof.Machine
end

