-- ==== Sys2Proof/Laws/PerInstr.lean ====
section
/-! SUPPORT. The family OpNumber: the encoded word of an instruction carries its operation number in `W[31:24]`
(spec/30_encoding.md R80, R83). -/

namespace Sys2Proof.Laws.OpNumber

/-- The word of `i` carries the operation number of `i`. -/
def Statement (i : Instr) : Prop := opField (encode i) = i.op

theorem hallEdge (code : HallCode) (ticks : Width16) : Statement (.hallEdge code ticks) := opField_wordOf _ _ _

theorem hallOvf : Statement .hallOvf := opField_wordOf _ _ _

theorem rotorStep : Statement .rotorStep := opField_wordOf _ _ _

theorem computeAngle (live : HallCode) : Statement (.computeAngle live) := opField_wordOf _ _ _

theorem computeVelocity (now : Width16) : Statement (.computeVelocity now) := opField_wordOf _ _ _

theorem signalChange : Statement .signalChange := opField_wordOf _ _ _

theorem writeAmplitude (value : Width16Diff) : Statement (.writeAmplitude value) := opField_wordOf _ _ _

theorem getMaxAmplitude : Statement .getMaxAmplitude := opField_wordOf _ _ _

theorem commStep (live : HallCode) : Statement (.commStep live) := opField_wordOf _ _ _

theorem setEnable (en : Bool) : Statement (.setEnable en) := by
  unfold Statement encode opField wordOf
  cases en <;> decide

theorem servoWidth (width : Width16) : Statement (.servoWidth width) := opField_wordOf _ _ _

theorem servoPeriod (period : Width16) (valid : Bool) : Statement (.servoPeriod period valid) := by
  unfold Statement encode opField wordOf
  apply BitVec.eq_of_getLsbD_eq; intro i hi
  cases valid <;> interval_cases i <;> simp [flagBit, Instr.op]

theorem servoOvf : Statement .servoOvf := opField_wordOf _ _ _

theorem getPeriod : Statement .getPeriod := opField_wordOf _ _ _

theorem writeChannel (phase : Phase) (width : Width16) (enabled : Bool) : Statement (.writeChannel phase width enabled) := by
  unfold Statement encode opField wordOf
  apply BitVec.eq_of_getLsbD_eq; intro i hi
  cases phase <;> cases enabled <;> interval_cases i <;> simp [flagBit, Instr.op, phaseBits]

theorem syncModes : Statement .syncModes := opField_wordOf _ _ _

theorem faultPoll (fault : Bool) : Statement (.faultPoll fault) := by
  unfold Statement encode opField wordOf
  cases fault <;> decide

end Sys2Proof.Laws.OpNumber
end

