-- ==== Sys2Proof/Tests/Slice0.lean ====
section
/-! SUPPORT. The model's own tests. Expected values come from spec/95_test_vectors.md (MV, BV, RV, KV, TV, IV, FV, DV:
the vectors of its part 2), from the worked examples of the rules named, and from hand calculation by those rules.
After them, one witness for every statement that has hypotheses. -/

open Sys2Proof Sys2Proof.Machine

namespace Sys2Proof.Tests

/-! ### Helpers -/

/-- The next state, where there is one. -/
def next? (r : Result) : Option State :=
  match r with
  | .next t => some t
  | .fault _ | .refused _ => none

/-- The latest response and its value. -/
def lastResponse (r : Result) : Option (Status × Word) :=
  match next? r with
  | some t => t.resp.map fun x => (x.status, x.value)
  | none => none

/-- The outputs as `(width, enabled)` for A, B, C. -/
def outputs (r : Result) : Option (PerPhase Channel) := (next? r).map (·.active)

/-- The start state of RV7 to RV14. -/
def turning : State :=
  { State.reset with
    hallPrev := 1, hallCur := 5, countsElapsed := 1000, velocity := 1092222, direction := .forward }

/-- The start state of the KV vectors. -/
def driving : State :=
  { State.reset with hallCur := 1, enabled := true, drvFault := false, semiAmplitude := 250 }

/-- The start state of TV15. -/
def throttled : State :=
  { State.reset with lastAmplitude := 200, semiAmplitude := 200, enabled := true, commPending := false }

/-- A halted block. -/
def stopped : State := { State.reset with halted := true, semiAmplitude := 1000 }

/-- Three channels. -/
def triple (a : Nat) (ea : Bool) (b : Nat) (eb : Bool) (c : Nat) (ec : Bool) : PerPhase Channel :=
  { a := ⟨BitVec.ofNat 16 a, ea⟩, b := ⟨BitVec.ofNat 16 b, eb⟩, c := ⟨BitVec.ofNat 16 c, ec⟩ }

/-! ### What is refused as ill-formed (R7) -/

theorem test_wf_reference : Config.ref.wf = true := by decide
theorem test_illformed_a : ({ Config.ref with pwmPeriod := 1 } : Config).wfPwmPeriod = false ∧
    ({ Config.ref with pwmPeriod := 65536 } : Config).wf = false := by decide
theorem test_illformed_b : ({ Config.ref with hallCaptureFreqHz := 5 } : Config).wf = false ∧
    ({ Config.ref with hallCaptureFreqHz := 196608 } : Config).wfHallFreq = false := by decide
theorem test_illformed_c : ({ Config.ref with countMax := 0 } : Config).wf = false ∧
    ({ Config.ref with countMax := 65536 } : Config).wfCountMax = false := by decide
theorem test_illformed_d : ({ Config.ref with servoCaptureFreqHz := 999 } : Config).wf = false := by decide
/-- U11: a deadband that reaches the half-span. -/
theorem test_illformed_e : ({ Config.ref with servoDeadband := 300 } : Config).wf = false ∧
    ({ Config.ref with servoLow := 1800 } : Config).wf = false := by decide
theorem test_illformed_f : ({ Config.ref with servoMargin := 63736 } : Config).wf = false ∧
    ({ Config.ref with servoMargin := 63735 } : Config).wf = true := by decide
theorem test_illformed_g : ({ Config.ref with slewLimit := 65536 } : Config).wf = false := by decide
theorem test_illformed_h : ({ Config.ref with servoOvfLimit := 0 } : Config).wf = false ∧
    ({ Config.ref with servoOvfLimit := 256 } : Config).wf = false := by decide
/-- Code 7 with an angle; two codes with one angle; two 3-cycles. -/
theorem test_illformed_i :
    ({ Config.ref with hallAngle := { Config.defaultHallAngle with c7 := some 5 } } : Config).wf = false ∧
    ({ Config.ref with hallAngle := { Config.defaultHallAngle with c5 := some 0 } } : Config).wf = false ∧
    ({ Config.ref with hallNext := { Config.defaultHallNext with c4 := some 1, c3 := some 6 } } : Config).wf = false := by
  decide
theorem test_illformed_j :
    ({ Config.ref with commTable := { Config.defaultCommTable with one := ⟨.neg, .pos, .pos⟩ } } : Config).wf = false := by
  decide

/-- DV1 to DV6, DV8, DV9, DV12, DV14, DV15, DV17, IV7, IV8 and the three illegal words of R92. -/
theorem test_illegal_words :
    ([0x00000000, 0xFFFFFFFF, 0x15000000, 0x51000000, 0x11000001, 0x10080000, 0x13050001, 0x21010000, 0x31020000,
      0x24000002, 0x4107FFFF, 0x41080000, 0x41030000, 0x41070000] : List Word).all
      (fun w => !legalWord w && (match decode w with | .ok _ => false | .error _ => true)) = true := by decide

/-! ### Decoding: one word for every operation, written field by field from R81 and R83 -/

theorem test_decode_hallEdge : decode (0x10#8 ++ 0b00000#5 ++ 0b101#3 ++ 1000#16) = .ok (.hallEdge 5 1000) := by rfl
theorem test_decode_hallOvf : decode (0x11#8 ++ 0#24) = .ok .hallOvf := by rfl
theorem test_decode_rotorStep : decode (0x12#8 ++ 0#24) = .ok .rotorStep := by rfl
theorem test_decode_computeAngle : decode (0x13#8 ++ 0b00000#5 ++ 0b110#3 ++ 0#16) = .ok (.computeAngle 6) := by rfl
theorem test_decode_computeVelocity : decode (0x14#8 ++ 0#8 ++ 0x07D0#16) = .ok (.computeVelocity 2000) := by rfl
theorem test_decode_signalChange : decode (0x20#8 ++ 0#24) = .ok .signalChange := by rfl
/-- R92: -250 is 0xFF06. -/
theorem test_decode_writeAmplitude :
    decode (0x21#8 ++ 0#8 ++ 0xFF06#16) = .ok (.writeAmplitude (BitVec.ofInt 16 (-250))) ∧
    s16 0xFF06 = -250 := ⟨by rfl, by decide⟩
theorem test_decode_getMaxAmplitude : decode (0x22#8 ++ 0#24) = .ok .getMaxAmplitude := by rfl
theorem test_decode_commStep : decode (0x23#8 ++ 0b00000#5 ++ 0b101#3 ++ 0#16) = .ok (.commStep 5) := by rfl
theorem test_decode_setEnable : decode (0x24#8 ++ 0#23 ++ 1#1) = .ok (.setEnable true) := by rfl
theorem test_decode_servoWidth : decode (0x30#8 ++ 0#8 ++ 0x0672#16) = .ok (.servoWidth 1650) := by rfl
theorem test_decode_servoPeriod : decode (0x31#8 ++ 0#7 ++ 1#1 ++ 0x4E20#16) = .ok (.servoPeriod 20000 true) := by rfl
theorem test_decode_servoOvf : decode (0x32#8 ++ 0#24) = .ok .servoOvf := by rfl
theorem test_decode_getPeriod : decode (0x40#8 ++ 0#24) = .ok .getPeriod := by rfl
/-- enabled = 1, phase = 01 (B), width = 1250. -/
theorem test_decode_writeChannel :
    decode (0x41#8 ++ 0b00000#5 ++ 0b1#1 ++ 0b01#2 ++ 0x04E2#16) = .ok (.writeChannel .B 1250 true) := by rfl
theorem test_decode_syncModes : decode (0x42#8 ++ 0#24) = .ok .syncModes := by rfl
theorem test_decode_faultPoll : decode (0x50#8 ++ 0#23 ++ 1#1) = .ok (.faultPoll true) := by rfl

/-- DV7, DV10, DV13, DV16: the widest operands. -/
theorem test_encode_extremes :
    encode (.hallEdge 7 65535) = 0x1007FFFF ∧ encode (.writeAmplitude 65535) = 0x2100FFFF ∧
    encode (.servoPeriod 65535 true) = 0x3101FFFF ∧ encode (.writeChannel .C 65535 true) = 0x4106FFFF := by decide

/-- R62: byte 0 is bits 7:0. -/
theorem test_bytes : encodeBytes (.hallEdge 5 1000) = [0xE8, 0x03, 0x05, 0x10] := by decide

/-- The host's reading of an opcode-table row with no operand bits set. -/
theorem test_decodeTableWord :
    decodeTableWord 32 0x410504E2 = some (.writeChannel .B 1250 true) ∧ decodeTableWord 32 0x41030000 = none ∧
    decodeTableWord 8 0x11 = none := by decide

/-! ### Arithmetic -/

/-- MV1 to MV7. -/
theorem test_angles :
    angleAdd 65535 1 = 0 ∧ angleSub 0 1 = 65535 ∧ angleAdd 54613 5461 = 60074 ∧ angleAdd 60075 5461 = 0 ∧
    angleDiff 0 65535 = 1 ∧ angleDiff 65535 0 = -1 ∧ angleDiff 32768 0 = -32768 := by decide
/-- MV8 to MV15. -/
theorem test_average_sign_abs_tdiv :
    average 1200 1800 = 1500 ∧ average 0 1 = 0 ∧ average 1 0 = 1 ∧ average (-3) 0 = -2 ∧ average 0 (-3) = -1 ∧
    signOf (-1092222) = -1 ∧ signOf 0 = 0 ∧ absOf (-32768) = 32768 ∧ tdiv (-7) 2 = -3 ∧ tdiv 7 (-2) = -3 ∧
    tdiv (-7) (-2) = 3 ∧ tdiv (-850) 283 = -3 := by decide
/-- MV16 to MV19. -/
theorem test_degrees :
    [0, 1, 29, 30, 45, 59, 60, 89, 90, 179, 180, 359, 360].map degreesToAngle16 =
      [0, 182, 5279, 5461, 8192, 10741, 10923, 16202, 16384, 32586, 32768, 65354, 0] ∧
    ([0, 91, 4095, 4096, 4097, 5443, 5461, 65445, 65535] : List Angle16).map angle16ToDegrees =
      [0, 0, 22, 23, 23, 30, 30, 360, 360] := by decide
/-- MV21, MV22. -/
theorem test_speed :
    [1, 2, 800, 1000, 1001, 2000, 65534, 65535].map (speedFromTicks Config.ref) =
      [1092222976, 546111488, 1365278, 1092222, 1091131, 546111, 16666, 16666] := by decide
/-- MV23 to MV25, MV27, MV29, MV30. -/
theorem test_mapRange :
    [1200, 1201, 1300, 1481, 1482, 1483, 1517, 1518, 1519, 1650, 1799, 1800].map
        (fun x => mapRange 1200 1800 x (-1000) 1000 17) =
      [-1000, -996, -646, -7, -3, 0, 0, 3, 7, 469, 996, 1000] ∧
    mapRange 1200 1800 1482 (-32767) 32767 17 = -115 ∧
    [1000, 1250, 1499, 1501, 2000].map (fun x => mapRange 1000 2000 x 0 1000 0) = [0, 250, 499, 501, 1000] ∧
    [1300, 1482, 1500, 1650].map (fun x => mapRange 1200 1800 x (-500) 1000 17) = [-234, 248, 250, 602] := by decide
/-- MV31 to MV38. -/
theorem test_slew_and_saturation :
    slewStep Config.ref 0 1000 20000 = 200 ∧ slewStep Config.ref 200 (-1000) 20000 = 0 ∧
    slewStep Config.ref 0 1000 99 = 0 ∧ slewStep Config.ref 0 1000 100 = 1 ∧ slewStep Config.ref (-1000) 1000 65535 = -345 ∧
    slewStep Config.ref 500 469 20000 = 469 ∧ satInc8 254 = 255 ∧ satInc8 255 = 255 := by decide
/-- BV1 to BV15. -/
theorem test_bucket :
    ([0, 5443, 5461, 5462, 16383, 16384, 27306, 27307, 38229, 38230, 49151, 49152, 60074, 60075, 65535] :
        List Angle16).map bucket =
      [(.zero, false), (.zero, false), (.zero, false), (.one, false), (.one, false), (.two, false), (.two, false),
        (.zero, true), (.zero, true), (.one, true), (.one, true), (.two, true), (.two, true), (.zero, false),
        (.zero, false)] := by decide
/-- R88: a channel register as 17 bits; a direction as s2; R87: a response as 34 bits. -/
theorem test_packed_forms :
    Channel.bits ⟨1250, true⟩ = 0x104E2 ∧ Direction.reverse.bits = 0b11 ∧
    Response.bits ⟨.halted, 0⟩ = 0x300000000 := by decide

/-! ### Operations, one step each -/

/-- RV1 and RV2. -/
theorem test_hallEdge :
    (next? (exec (.hallEdge 0 77) State.reset)).map (fun t => (t.hallCur, t.countsElapsed, t.rotorPending)) =
      some (0, 0, false) ∧
    (next? (exec (.hallEdge 1 500) State.reset)).map (fun t => (t.hallPrev, t.hallCur, t.countsElapsed, t.rotorPending)) =
      some (0, 1, 500, true) := by decide
/-- RV18. -/
theorem test_hallEdge_after_overflow :
    (next? (exec (.hallEdge 1 77) { State.reset with hallOverflow := true })).map
      (fun t => (t.countsElapsed, t.hallOverflow)) = some (65535, false) := by decide
theorem test_hallOvf :
    (next? (exec .hallOvf turning)).map (fun t => (t.hallOverflow, t.rotorPending)) = some (true, false) := by decide
/-- The example of R126, and RV15. -/
theorem test_rotorStep :
    (next? (exec .rotorStep { turning with rotorPending := true, velocity := 0, direction := .unknown })).map
      (fun t => (t.velocity, t.direction, t.rotorPending)) = some (1092222, .forward, false) ∧
    (next? (exec .rotorStep { turning with hallCur := 3, countsElapsed := 800, rotorPending := true })).map
      (fun t => (t.velocity, t.direction)) = some (0xFFEB2AE2, .reverse) := by decide
/-- RV16 and RV19: a glitch is logged, a zero interval is not. -/
theorem test_rotorStep_glitch :
    (next? (exec .rotorStep { turning with hallPrev := 3, hallCur := 4, rotorPending := true })).map
      (fun t => (t.velocity, t.direction, t.logPort)) = some (0, .unknown, [0x0100001C]) ∧
    (next? (exec .rotorStep { turning with countsElapsed := 0, rotorPending := true })).map
      (fun t => (t.velocity, t.direction, t.logPort)) = some (0, .unknown, []) := by decide
/-- RV20 and RV21: the live code counts only while the cached one is invalid. -/
theorem test_computeAngle :
    lastResponse (exec (.computeAngle 5) State.reset) = some (.ok, 10923) ∧
    lastResponse (exec (.computeAngle 7) State.reset) = some (.fail, 0) ∧
    lastResponse (exec (.computeAngle 6) { turning with hallCur := 4 }) = some (.ok, 21845) := by decide
/-- RV8, RV9, RV11, RV12. -/
theorem test_computeVelocity :
    lastResponse (exec (.computeVelocity 1000) turning) = some (.ok, 1092222) ∧
    lastResponse (exec (.computeVelocity 1001) turning) = some (.ok, 1091131) ∧
    lastResponse (exec (.computeVelocity 65535) turning) = some (.ok, 16666) ∧
    lastResponse (exec (.computeVelocity 5) { turning with hallOverflow := true }) = some (.ok, 16666) := by decide
/-- RV6. -/
theorem test_computeVelocity_fails :
    lastResponse (exec (.computeVelocity 10) { turning with direction := .unknown }) = some (.fail, 0) := by decide
theorem test_signalChange :
    (next? (exec .signalChange throttled)).map (·.commPending) = some true := by decide
/-- KV12 and KV16: the inclusive bound; no signal is posted. -/
theorem test_writeAmplitude :
    (next? (exec (.writeAmplitude 0xFC18) throttled)).map (fun t => (t.semiAmplitude.toInt, t.commPending)) =
      some (-1000, false) := by decide
/-- KV13 and KV15. -/
theorem test_writeAmplitude_halts :
    (next? (exec (.writeAmplitude 1001) driving)).map (fun t => (t.halted, t.logPort, t.semiAmplitude)) =
      some (true, [0x030003E9], 250) ∧
    (next? (exec (.writeAmplitude 0x8000) driving)).map (fun t => (t.halted, t.logPort)) =
      some (true, [0x03008000]) := by decide
/-- KV17. -/
theorem test_getMaxAmplitude :
    lastResponse (exec .getMaxAmplitude { driving with cfg := { Config.ref with pwmPeriod := 2001 } }) =
      some (.ok, 1000) ∧
    lastResponse (exec .getMaxAmplitude { driving with cfg := { Config.ref with pwmPeriod := 65535 } }) =
      some (.ok, 32767) := by decide
/-- KV1 and the row `s = -1` of sector 2. -/
theorem test_commStep_drives :
    outputs (exec (.commStep 1) driving) = some (triple 1000 false 1250 true 750 true) ∧
    outputs (exec (.commStep 2) { driving with hallCur := 2, semiAmplitude := 0xFFFF }) =
      some (triple 999 true 1001 true 1000 false) := by decide
/-- KV3, KV5, KV8, KV2. -/
theorem test_commStep_other_branches :
    outputs (exec (.commStep 1) { driving with semiAmplitude := 0 }) = some (triple 0 true 0 true 0 true) ∧
    outputs (exec (.commStep 1) { driving with semiAmplitude := 0, enabled := false }) =
      some (triple 0 false 0 false 0 false) ∧
    (next? (exec (.commStep 7) { driving with hallCur := 7, enabled := false })).map (·.logPort) = some [0x02000000] ∧
    lastResponse (exec (.commStep 1) { driving with commPending := false }) = some (.fail, 0) := by decide
/-- KV18. -/
theorem test_setEnable :
    (next? (exec (.setEnable false) throttled)).map (fun t => (t.enabled, t.commPending)) = some (false, false) := by
  decide
theorem test_servoWidth :
    (next? (exec (.servoWidth 1650) throttled)).map (fun t => (t.servoWidth, t.commPending)) = some (1650, false) := by
  decide
/-- The example of R162 and TV3. -/
theorem test_servoPeriod :
    (next? (exec (.servoPeriod 20000 true) { State.reset with servoWidth := 1800 })).map
      (fun t => (t.lastAmplitude, t.semiAmplitude, t.enabled, t.commPending)) = some (200, 200, true, true) ∧
    (next? (exec (.servoPeriod 65535 true) { State.reset with servoWidth := 1100 })).map
      (fun t => (t.lastAmplitude.toInt, t.enabled)) = some (-655, true) := by decide
/-- TV12, TV14 and TV19. -/
theorem test_servoPeriod_invalid :
    (next? (exec (.servoPeriod 65535 true) { throttled with servoWidth := 1901, servoOvfCount := 3 })).map
      (fun t => (t.lastAmplitude, t.semiAmplitude, t.enabled, t.servoOvfCount, t.commPending)) =
      some (0, 200, false, 3, true) ∧
    (next? (exec (.servoPeriod 20000 false) { throttled with servoWidth := 1800 })).map
      (fun t => (t.lastAmplitude, t.enabled, t.servoPeriod)) = some (0, false, 20000) := by decide
/-- TV15, TV17 and the saturation of R163. -/
theorem test_servoOvf :
    (next? (exec .servoOvf throttled)).map (fun t => (t.servoOvfCount, t.lastAmplitude, t.enabled, t.commPending)) =
      some (1, 200, true, false) ∧
    (next? (exec .servoOvf { throttled with servoOvfCount := 1 })).map
      (fun t => (t.servoOvfCount, t.lastAmplitude, t.semiAmplitude, t.enabled, t.commPending)) =
      some (2, 0, 200, false, true) ∧
    (next? (exec .servoOvf { throttled with servoOvfCount := 255 })).map (·.servoOvfCount) = some 255 := by decide
/-- IV1. -/
theorem test_getPeriod : lastResponse (exec .getPeriod driving) = some (.ok, 2000) := by decide
/-- IV2 and IV6. -/
theorem test_writeChannel :
    (next? (exec (.writeChannel .B 1250 true) State.reset)).map (fun t => (t.staged, t.active)) =
      some (triple 0 false 1250 true 0 false, triple 0 false 0 false 0 false) ∧
    (next? (exec (.writeChannel .C 65535 true) State.reset)).map (fun t => t.staged.c) = some ⟨65535, true⟩ := by decide
/-- The example of R183. -/
theorem test_syncModes :
    (next? (exec .syncModes { State.reset with staged := triple 1000 false 1250 true 750 true })).map
      (fun t => (t.active, t.staged)) =
      some (triple 1000 false 1250 true 750 true, triple 1000 false 1250 true 750 true) := by decide
/-- FV1 and FV2. -/
theorem test_faultPoll :
    (next? (exec (.faultPoll false) State.reset)).map (fun t => (t.drvFault, t.commPending)) = some (false, true) ∧
    (next? (exec (.faultPoll true) { driving with active := triple 1000 false 1250 true 750 true })).map
      (fun t => (t.drvFault, t.active)) = some (true, triple 1000 false 1250 true 750 true) := by decide

/-- R85, DV18, and a word through the front: the first step after reset runs the word presented. -/
theorem test_step :
    lastResponse (step (State.reset.withFetchWord 32 0x41030000)) = some (.illegal, 0) ∧
    lastResponse (step (stopped.withFetchWord 32 0x00000000)) = some (.halted, 0) ∧
    lastResponse (step (State.reset.withFetchWord 32 0x40000000)) = some (.ok, 2000) := by decide
/-- R230: reset leaves the halt and answers nothing. -/
theorem test_reset :
    (next? (step { stopped with inputs := [.reset (some 0x40000000)] })).map
      (fun t => (t.halted, t.semiAmplitude, t.responses.length)) = some (false, 0, 0) := by decide
theorem test_refuses_illformed :
    exec .getPeriod { State.reset with cfg := { Config.ref with pwmPeriod := 1 } } = .refused .illFormedConfig := by rfl

/-- R92 in assembly (R89), with a binary code, a minus sign and a comment. -/
theorem test_assembly :
    readLine "HALL_EDGE 0b101, 1000 ; an edge".toList = some (.hallEdge 5 1000) ∧
    readLine "WRITE_AMPLITUDE -250".toList = some (.writeAmplitude 0xFF06) ∧
    readLine "WRITE_CHANNEL D, 0, 0".toList = none ∧
    printInstr (.writeChannel .B 1250 true) = "WRITE_CHANNEL B, 1250, 1" := by decide
/-- R90. -/
theorem test_pseudo :
    (expand (.servoPulse 1800 20000)).map encode = [0x30000708, 0x31014E20] ∧
    (expand .servoLost).map encode = [0x31000000] := by decide

/-- The block one edge after reset. -/
def oneEdge : State :=
  { State.reset with
    hallCur := 5, countsElapsed := 1000, rotorPending := true, responses := [⟨.ok, 0⟩], commands := [0x100503E8] }

/-- R250 with every duty and the default tables named: the reset state with a run presented that meets them, and a state
one edge later, which is not the reset state. -/
theorem test_launch :
    LaunchPremises [.widthBeforePeriod, .ticksNonzero, .codesChange, .writeThenSignal, .amplitudesInRange, .leavesInverter]
      ⟨some Config.defaultHallAngle, some Config.defaultHallNext, some Config.defaultCommTable⟩
      { State.reset with inputs := [.command 0x30000708, .command 0x31014E20, .command 0x100503E8, .command 0x210003E8,
          .command 0x20000000] } ∧
    LaunchPremises [] {} oneEdge :=
  ⟨⟨by decide, .inl rfl, rfl, by decide, by simp [OpenTables.agree, State.reset, Config.ref]⟩,
    ⟨by decide, .inr ⟨.next (.start [.command 0x100503E8]) rfl, by decide, by decide, by decide, .inl (by decide), by decide,
      by decide, by decide⟩, rfl, by simp, by simp [OpenTables.agree]⟩⟩

/-- R245(a) and R236 broken: a valid SERVO_PERIOD with no width before it, though one after a width delivered earlier
is in order; an amplitude with no signal after it. -/
theorem test_duties :
    HostDuty.holds .widthBeforePeriod { State.reset with inputs := [.command 0x31014E20] } = false ∧
    HostDuty.holds .widthBeforePeriod { State.reset with commands := [0x30000708], inputs := [.command 0x31014E20] } = true ∧
    HostDuty.holds .widthBeforePeriod { State.reset with inputs := [.command 0x31000000] } = true ∧
    HostDuty.holds .writeThenSignal { State.reset with inputs := [.command 0x20000000, .command 0x210003E8] } = false := by
  decide

/-! ### Witnesses: for every statement with hypotheses, states and operands that meet all of them

Each is named after its statement. Where a statement has several clauses, each clause has its own, at the ends of its
range. -/

/-- A configuration at the low end of R7 and one at the high end. -/
def lowConfig : Config :=
  { Config.ref with pwmPeriod := 2, hallCaptureFreqHz := 6, countMax := 1, servoCaptureFreqHz := 1000, slewLimit := 0,
                    servoOvfLimit := 1 }

def highConfig : Config :=
  { Config.ref with pwmPeriod := 65535, hallCaptureFreqHz := 196607, servoMargin := 63735, slewLimit := 65535,
                    servoOvfLimit := 255 }

theorem witness_wellFormed : Config.ref.wf = true ∧ lowConfig.wf = true ∧ highConfig.wf = true := by decide

/-- `State.Running`, the hypothesis of most result statements, in the states the other witnesses use and at both ends
of R7. -/
theorem witness_Running :
    State.reset.Running ∧ turning.Running ∧ driving.Running ∧ throttled.Running ∧
    ({ State.reset with cfg := lowConfig } : State).Running ∧ ({ State.reset with cfg := highConfig } : State).Running := by
  decide

theorem witness_EncodeOfDecodeIsTheWord : decode 0x4106FFFF = .ok (.writeChannel .C 65535 true) := by rfl

/-- A word that its row selects, and one that it does not. -/
theorem witness_DecoderFollowsTheOperationMap :
    (⟨0x41, 0x41000000, 0xFFF80000, true⟩ : OpRow) ∈ opTable ∧
    (⟨0x41, 0x41000000, 0xFFF80000, true⟩ : OpRow).selects 0x4106FFFF = true ∧
    (⟨0x41, 0x41000000, 0xFFF80000, true⟩ : OpRow).selects 0x4107FFFF = false := by decide

theorem witness_AtMostOneRowSelectsAWord :
    (⟨0x50, 0x50000000, 0xFFFFFFFE, false⟩ : OpRow) ∈ opTable ∧
    (⟨0x50, 0x50000000, 0xFFFFFFFE, false⟩ : OpRow).selects 0x50000001 = true := by decide

/-- In a running and in a halted block. -/
theorem witness_StepRunsTheDecodedInstruction :
    ({ driving with inputs := [.command 0x23010000] } : State).cfg.wf = true ∧
    ({ stopped with inputs := [.command 0x23010000] } : State).cfg.wf = true ∧
    decode 0x23010000 = .ok (.commStep 1) := ⟨by decide, by decide, by rfl⟩

theorem witness_IllegalWordOnlyAnswersIllegal :
    ({ driving with inputs := [.command 0x41030000] } : State).Running ∧ legalWord 0x41030000 = false := by decide

/-- The three clauses: out of range by one on either side and at the extreme, the halt itself, and a halted block with a
word presented. -/
theorem witness_HaltEntryAndHaltedBlock :
    (driving.Running ∧ absOf (s16 1001) > driving.cfg.maxAmp ∧ absOf (s16 0xFC17) > driving.cfg.maxAmp ∧
      absOf (s16 0x8000) > driving.cfg.maxAmp) ∧
    (∃ t, driving.halted = false ∧ exec (.writeAmplitude 1001) driving = .next t ∧ t.halted = true) ∧
    (stopped.cfg.wf = true ∧ stopped.halted = true) := ⟨by decide, ⟨_, rfl, rfl, rfl⟩, by decide⟩

/-- A reset with a word presented and one without; the halted block that leaves the halt. -/
theorem witness_ResetInputIsTheOnlyWayOutOfHalt :
    (driving.cfg.wf = true ∧ ({ driving with inputs := [.reset none] } : State).inputs = [.reset none]) ∧
    ∃ t, step { stopped with inputs := [.reset (some 0x40000000)] } = .next t ∧ stopped.halted = true ∧
      t.halted = false := ⟨by decide, ⟨_, rfl, rfl, rfl⟩⟩

theorem witness_IllFormedConfigurationIsRefused :
    ({ State.reset with cfg := { Config.ref with pwmPeriod := 1 } } : State).cfg.wf = false := by decide

/-- A repeat, a change to a valid code, a change to an invalid one, with the overflow flag either way. -/
theorem witness_HallEdgeResult :
    turning.Running ∧ (5 : HallCode) = turning.hallCur ∧ (4 : HallCode) ≠ turning.hallCur ∧
    (7 : HallCode) ≠ turning.hallCur ∧ turning.hallOverflow = false ∧
    ({ turning with hallOverflow := true } : State).Running := by decide

/-- Each of the four clauses; the last in both directions and at both ends of the tick count. -/
theorem witness_RotorStepResult :
    (turning.Running ∧ turning.rotorPending = false) ∧
    (({ turning with rotorPending := true, countsElapsed := 0 } : State).Running) ∧
    (classifyDirection Config.ref 3 4 = .unknown ∧ classifyDirection Config.ref 0 1 = .unknown) ∧
    (({ turning with rotorPending := true, countsElapsed := 1 } : State).Running ∧
      classifyDirection turning.cfg turning.hallPrev turning.hallCur = .forward) ∧
    (({ turning with rotorPending := true, hallCur := 3, countsElapsed := 65535 } : State).Running ∧
      classifyDirection Config.ref 1 3 = .reverse) := by decide

/-- Each of the three clauses, the third for a pair of valid codes and for an invalid one. -/
theorem witness_ClassifyDirectionIsTheNeighbourTest :
    Config.ref.wf = true ∧ classifyDirection Config.ref 1 5 = .forward ∧ classifyDirection Config.ref 5 1 = .reverse ∧
    classifyDirection Config.ref 1 4 = .unknown ∧ classifyDirection Config.ref 0 1 = .unknown := by decide

theorem witness_ClassifyDirectionOfTheDefaultTable : Config.ref.hallNext = Config.defaultHallNext := by rfl

/-- The three clauses, at codes 1 and 6 and at both invalid codes. -/
theorem witness_ComputeAngleResult :
    (validCode 1 = true ∧ validCode 6 = true) ∧ (validCode 0 = false ∧ validCode 7 = false) ∧
    ({ State.reset with hallCur := 6 } : State).Running ∧ ({ State.reset with hallCur := 7 } : State).Running ∧
    State.reset.Running := by decide

/-- The failing clause both ways; the two clauses of a successful query on either side of their boundary, with and
without an overflow. -/
theorem witness_ComputeVelocityResult :
    (State.reset.Running ∧ State.reset.countsElapsed = 0) ∧
    (turning.Running ∧ turning.countsElapsed ≠ 0 ∧ turning.direction ≠ .unknown ∧
      elapsedEstimate 1000 turning ≤ turning.countsElapsed.toNat ∧
      elapsedEstimate 1001 turning > turning.countsElapsed.toNat) ∧
    elapsedEstimate 0 { turning with hallOverflow := true } > turning.countsElapsed.toNat := by decide

/-- RV23: two edges, then one step. -/
theorem witness_OvertakenTransitionIsNeverClassified :
    turning.halted = false ∧ (4 : HallCode) ≠ turning.hallCur ∧ (5 : HallCode) ≠ 4 ∧ (300 : Width16) ≠ 0 ∧
    ∃ t u v, exec (.hallEdge 4 900) turning = .next t ∧ exec (.hallEdge 5 300) t = .next u ∧
      exec .rotorStep u = .next v := by
  refine ⟨by decide, by decide, by decide, by decide, _, _, _, rfl, rfl, rfl⟩

/-- Both signs at the bound and one beyond it. -/
theorem witness_WriteAmplitudeResult :
    driving.Running ∧ absOf (s16 1000) ≤ driving.cfg.maxAmp ∧ absOf (s16 0xFC18) ≤ driving.cfg.maxAmp ∧
    absOf (s16 1001) > driving.cfg.maxAmp ∧ absOf (s16 0xFC17) > driving.cfg.maxAmp := by decide

/-- Both ends of each of the six ranges. -/
theorem witness_BucketRanges :
    ([60075, 5461, 5462, 16383, 16384, 27306, 27307, 38229, 38230, 49151, 49152, 60074] : List Angle16).map
      (fun g => (g.toNat + 5461) % 65536) =
      [0, 10922, 10923, 21844, 21845, 32767, 32768, 43690, 43691, 54612, 54613, 65535] := by decide

/-- The five clauses of COMM_STEP: nothing pending; no angle; the gate closed by `enabled` and by the fault; the brake;
the drive at both ends of the amplitude. -/
theorem witness_CommStepResult :
    (throttled.Running ∧ throttled.commPending = false) ∧
    (State.reset.Running ∧ State.reset.commPending = true ∧ validCode (angleCode State.reset.hallCur 7) = false) ∧
    (validCode (angleCode State.reset.hallCur 5) = true ∧ State.reset.enabled = false ∧ State.reset.drvFault = true) ∧
    (({ driving with semiAmplitude := 0 } : State).Running ∧ driving.enabled = true ∧ driving.drvFault = false) ∧
    (driving.Running ∧ driving.commPending = true ∧ validCode (angleCode driving.hallCur 0) = true ∧
      (1000 : Width16Diff) ≠ 0 ∧ absOf (s16 1000) ≤ driving.cfg.maxAmp ∧ absOf (s16 0xFC18) ≤ driving.cfg.maxAmp) := by
  decide

/-- Every one of the six sectors. -/
theorem witness_SectorPatternsOfTheDefaultTables :
    ∀ k : HallCode, k ∈ validCodes → ∃ t,
      ({ driving with hallCur := k } : State).cfg.hallAngle = Config.defaultHallAngle ∧
      ({ driving with hallCur := k } : State).cfg.commTable = Config.defaultCommTable ∧
      driving.semiAmplitude ≠ 0 ∧ absOf (s16 driving.semiAmplitude) ≤ driving.cfg.maxAmp ∧
      exec (.commStep 0) { driving with hallCur := k } = .next t := by
  intro k hk
  have h : k = 1 ∨ k = 2 ∨ k = 3 ∨ k = 4 ∨ k = 5 ∨ k = 6 := by simpa [validCodes] using hk
  rcases h with rfl | rfl | rfl | rfl | rfl | rfl <;> exact ⟨_, rfl, rfl, by decide, by decide, rfl⟩

/-- Each of the four patterns is committed by some step; the driven one at the largest amplitude. -/
theorem witness_CommittedPatternIsOneOfFour :
    absOf (s16 1000) ≤ driving.cfg.maxAmp ∧
    outputs (exec (.commStep 7) State.reset) = some (triple 0 false 0 false 0 false) ∧
    outputs (exec (.commStep 1) { driving with semiAmplitude := 0 }) = some (triple 0 true 0 true 0 true) ∧
    outputs (exec (.commStep 1) { driving with semiAmplitude := 1000 }) =
      some (triple 1000 false 2000 true 0 true) := by decide

theorem witness_OutputsEnabledOnlyWhenSafe :
    (∃ t, driving.halted = false ∧ driving.commPending = true ∧ exec (.commStep 1) driving = .next t ∧
      anyEnabled t.active = true) ∧ ∃ t, exec (.faultPoll true) driving = .next t :=
  ⟨⟨_, rfl, rfl, rfl, by decide⟩, ⟨_, rfl⟩⟩

theorem witness_WriteThenSignalIsTheWorkingOrder :
    driving.Running ∧ absOf (s16 1000) ≤ driving.cfg.maxAmp ∧ driving.enabled = true ∧ driving.drvFault = false ∧
    validCode (angleCode driving.hallCur 0) = true ∧ (1000 : Width16Diff) ≠ 0 := by decide

/-- The accepted widths at both ends, the first rejected width on either side, and a pulse reported invalid. -/
theorem witness_ServoPeriodResult :
    throttled.Running ∧ absOf (s16 throttled.lastAmplitude) ≤ throttled.cfg.maxAmp ∧
    absOf (s16 0xFC18) ≤ throttled.cfg.maxAmp ∧
    widthAccepted throttled.cfg 1100 = true ∧ widthAccepted throttled.cfg 1900 = true ∧
    widthAccepted throttled.cfg 1099 = false ∧ widthAccepted throttled.cfg 1901 = false := by decide

/-- Below the limit, at it, and saturated. -/
theorem witness_ServoOvfResult :
    throttled.Running ∧ (satInc8 0).toNat < throttled.cfg.servoOvfLimit ∧ (satInc8 1).toNat ≥ throttled.cfg.servoOvfLimit ∧
    (satInc8 255).toNat = 255 ∧ highConfig.servoOvfLimit = 255 := by decide

theorem witness_OutputsChangeOnlyAtACommit :
    ∃ t, exec .syncModes { State.reset with staged := triple 500 true 1500 true 0 false } = .next t ∧
      t.active ≠ State.reset.active := ⟨_, rfl, by decide⟩

/-- For each element of R49, an operation that changes it. -/
theorem witness_EveryElementHasItsWritersOnly :
    (∃ t, exec (.hallEdge 4 9) turning = .next t ∧ t.hallCur ≠ turning.hallCur ∧ t.hallPrev ≠ turning.hallPrev ∧
      t.countsElapsed ≠ turning.countsElapsed ∧ t.rotorPending ≠ turning.rotorPending) ∧
    (∃ t, exec .hallOvf turning = .next t ∧ t.hallOverflow ≠ turning.hallOverflow) ∧
    (∃ t, exec .rotorStep { turning with rotorPending := true, hallCur := 3 } = .next t ∧
      t.velocity ≠ turning.velocity ∧ t.direction ≠ turning.direction) ∧
    (∃ t, exec (.writeAmplitude 1001) driving = .next t ∧ t.halted ≠ driving.halted) ∧
    (∃ t, exec (.faultPoll true) throttled = .next t ∧ t.commPending ≠ throttled.commPending) ∧
    (∃ t, exec (.faultPoll true) driving = .next t ∧ t.drvFault ≠ driving.drvFault) ∧
    (∃ t, exec (.servoWidth 1800) throttled = .next t ∧ t.servoWidth ≠ throttled.servoWidth) ∧
    (∃ t, exec (.servoPeriod 20000 true) { State.reset with servoWidth := 1800, servoOvfCount := 1 } = .next t ∧
      t.servoPeriod ≠ 0 ∧ t.semiAmplitude ≠ 0 ∧ t.lastAmplitude ≠ 0 ∧ t.enabled ≠ false ∧ t.servoOvfCount ≠ 1) ∧
    (∃ t, exec (.commStep 1) driving = .next t ∧ t.staged ≠ driving.staged ∧ t.active ≠ driving.active) :=
  ⟨⟨_, rfl, by decide⟩, ⟨_, rfl, by decide⟩, ⟨_, rfl, by decide⟩, ⟨_, rfl, by decide⟩, ⟨_, rfl, by decide⟩,
    ⟨_, rfl, by decide⟩, ⟨_, rfl, by decide⟩, ⟨_, rfl, by decide⟩, ⟨_, rfl, by decide⟩⟩

/-- For each flag, an operation that sets it and one that clears it (`halted` is cleared by none). -/
theorem witness_FlagsHaveTheirSettersAndClearers :
    (next? (exec .hallOvf turning)).map (·.hallOverflow) = some true ∧
    (next? (exec (.hallEdge 4 9) { turning with hallOverflow := true })).map (·.hallOverflow) = some false ∧
    (next? (exec (.hallEdge 4 9) turning)).map (·.rotorPending) = some true ∧
    (next? (exec .rotorStep { turning with rotorPending := true })).map (·.rotorPending) = some false ∧
    (next? (exec .servoOvf { throttled with servoOvfCount := 1 })).map (fun t => (t.commPending, t.enabled)) =
      some (true, false) ∧
    (next? (exec (.commStep 0) driving)).map (·.commPending) = some false ∧
    (next? (exec (.servoPeriod 0 true) { State.reset with servoWidth := 1100 })).map (·.enabled) = some true ∧
    (next? (exec (.faultPoll true) driving)).map (·.drvFault) = some true ∧
    (next? (exec (.faultPoll false) State.reset)).map (·.drvFault) = some false ∧
    (next? (exec (.writeAmplitude 0xFC17) driving)).map (·.halted) = some true ∧
    (next? (exec (.setEnable true) stopped)).map (·.halted) = some true := by decide

theorem witness_QueriesArePureAndRepeat : turning.cfg.wf = true ∧ stopped.cfg.wf = true := by decide

/-- A response of each of the four statuses. -/
theorem witness_OneResponsePerCommand :
    lastResponse (exec .rotorStep State.reset) = some (.fail, 0) ∧
    lastResponse (exec .getPeriod State.reset) = some (.ok, 2000) ∧
    lastResponse (step { State.reset with inputs := [.command 0x11000001] }) = some (.illegal, 0) ∧
    lastResponse (exec .getPeriod stopped) = some (.halted, 0) := by decide

/-- An event of each of the three kinds, and a capture operation. -/
theorem witness_EventsComeFromTheirOperations :
    (next? (exec .rotorStep { turning with hallCur := 7, hallPrev := 5, rotorPending := true })).map (·.log) =
      some [.glitch 5 7] ∧
    (next? (exec (.commStep 0) State.reset)).map (·.log) = some [.angleFault] ∧
    (next? (exec (.writeAmplitude 1001) driving)).map (·.log) = some [.halt 1001] ∧
    contextOf (.servoPeriod 0 false) = .captureSource := by decide

/-- Each of the conditions 1 to 7, met in a state that is not halted; condition 3 as an edge after an overflow, as a stale
query on either side of its boundary, and as a query after an overflow whose estimate does not exceed the interval. -/
theorem witness_ConditionsAreReportedAsTheTaxonomySays :
    conditionOf (.computeAngle 7) State.reset = some .hallInvalid ∧
    conditionOf (.commStep 0) State.reset = some .hallInvalid ∧
    conditionOf (.computeVelocity 0) State.reset = some .velocityUnavailable ∧
    conditionOf (.computeVelocity 1001) turning = some .staleOrOverflow ∧
    conditionOf (.computeVelocity 1000) turning = none ∧
    conditionOf (.computeVelocity 0) { turning with countsElapsed := 65535, hallOverflow := true } =
      some .staleOrOverflow ∧
    conditionOf (.hallEdge 4 9) { turning with hallOverflow := true } = some .staleOrOverflow ∧
    conditionOf .rotorStep { turning with hallCur := 7, rotorPending := true } = some .glitch ∧
    conditionOf (.servoPeriod 20000 true) State.reset = some .servoSignalLoss ∧
    conditionOf .servoOvf { throttled with servoOvfCount := 1 } = some .servoSignalLoss ∧
    conditionOf (.writeAmplitude 1001) driving = some .amplitudePrecondition ∧
    conditionOf (.faultPoll true) driving = some .driverFault := by decide

/-- A configuration other than CFG_REF, and a word presented. -/
theorem witness_InvariantHoldsAtReset :
    highConfig.wf = true ∧
    ∃ s : State, s = { State.reset with cfg := highConfig, inputs := [.command 0x50000000] } := ⟨by decide, _, rfl⟩

/-- A state that meets the invariant while the block turns and drives, and a step from it. -/
theorem witness_EveryStepKeepsTheInvariant :
    ∃ t, ({ turning with inputs := [.command 0x12000000] } : State).Inv ∧
      step { turning with inputs := [.command 0x12000000] } = .next t := by
  refine ⟨_, ⟨by decide, by decide, by decide, .inr ⟨by decide, 1000, by decide, by decide, by decide⟩,
    .inl (by decide), by decide, by decide⟩, rfl⟩

/-- Reset; and the state that two edges and a ROTOR_STEP reach, which has a direction, so that (c) speaks of it. -/
theorem witness_ReachableStatesSatisfyR46 :
    Config.ref.wf = true ∧ Reachable Config.ref State.reset ∧
    ∃ s, Reachable Config.ref s ∧ s.direction = .forward ∧ s.velocity.toNat = 1092222 := by
  refine ⟨by decide, .start [], _,
    .next (.next (.next (.start [.command 0x100101F4, .command 0x100503E8, .command 0x12000000]) rfl) rfl) rfl, ?_⟩
  decide

/-- Two sequencers that take turns: ROTOR_STEP, then COMM_STEP. -/
def turns (n : Nat) : Instr := if n % 2 = 0 then .rotorStep else .commStep 0

/-- The block of the fair run, once the commutation iteration pending at reset has run. -/
def settled (n : Nat) : State :=
  { State.reset with
    commPending := false
    log := [.angleFault]
    commits := [resetTriple]
    responses := ⟨.fail, 0⟩ :: ⟨.ok, 0⟩ :: List.replicate n ⟨.fail, 0⟩ }

/-- The fair run from reset. -/
def fairRun : Nat → State
  | 0 => State.reset
  | 1 => { State.reset with responses := [⟨.fail, 0⟩] }
  | n + 2 => settled n

theorem settled_step (i : Instr) (h : i = .rotorStep ∨ ∃ l, i = .commStep l) (n : Nat) :
    exec i (settled n) = .next (settled (n + 1)) := by
  have hw : (settled n).cfg.wf = true := by show Config.ref.wf = true; decide
  have hr : respond .fail 0 (settled n) = settled (n + 1) := by
    simp [respond, settled, List.replicate_succ']
  rcases h with rfl | ⟨l, rfl⟩
  · exact exec_of_effect (i := .rotorStep) hw rfl (.inl ⟨rfl, hr.symm⟩)
  · exact exec_of_effect (i := .commStep l) hw rfl (.inl ⟨rfl, hr.symm⟩)

theorem witness_FairSequencersReachQuiescence :
    SequencerRun turns fairRun ∧ WeaklyFair turns fairRun ∧ (fairRun 0).halted = false ∧
      (fairRun 0).commPending = true := by
  have kind : ∀ n, turns n = .rotorStep ∨ ∃ live, turns n = .commStep live := by
    intro n; unfold turns; split
    · exact .inl rfl
    · exact .inr ⟨0, rfl⟩
  refine ⟨⟨kind, ?_⟩, ?_, rfl, rfl⟩
  · intro n
    match n with
    | 0 => rfl
    | 1 => rfl
    | n + 2 => exact settled_step _ (kind _) n
  · intro n _
    exact ⟨fun _ => ⟨2 * n, by omega, by simp [turns]⟩, fun _ => ⟨2 * n + 1, by omega, 0, by simp [turns, Nat.add_mod]⟩⟩

/-- A closed gate and one allowed step of each kind: a fault-free poll while disabled; an enable, and a SERVO_PERIOD
that qualifies, while faulty; a valid SERVO_PERIOD that does not qualify while fault-free; a channel staged disabled; a
commutation iteration; a reset. -/
theorem witness_EveryStepKeepsTheGateClosed :
    State.reset.Closed ∧ ({ State.reset with drvFault := false } : State).Closed ∧
    (∃ t, step { State.reset with inputs := [.command 0x50000000] } = .next t ∧ State.reset.enabled = false ∧
      decode 0x50000000 = .ok (.faultPoll false)) ∧
    (∃ t, step { State.reset with inputs := [.command 0x24000001] } = .next t ∧ State.reset.drvFault = true ∧
      decode 0x24000001 = .ok (.setEnable true) ∧ enables (.setEnable true) State.reset = true) ∧
    (∃ t, step { State.reset with servoWidth := 1100, inputs := [.command 0x31014E20] } = .next t ∧
      decode 0x31014E20 = .ok (.servoPeriod 20000 true) ∧
      enables (.servoPeriod 20000 true) { State.reset with servoWidth := 1100 } = true) ∧
    (∃ t, step { State.reset with drvFault := false, servoWidth := 1099, inputs := [.command 0x31014E20] } = .next t ∧
      enables (.servoPeriod 20000 true) { State.reset with servoWidth := 1099 } = false) ∧
    (∃ t, step { State.reset with inputs := [.command 0x410203E8] } = .next t ∧
      decode 0x410203E8 = .ok (.writeChannel .C 1000 false) ∧ stagesEnabled (.writeChannel .C 1000 false) = false) ∧
    (∃ t, step { State.reset with inputs := [.command 0x23010000] } = .next t) ∧
    ∃ t, step { State.reset with inputs := [.reset none] } = .next t :=
  ⟨⟨rfl, rfl, .inl rfl⟩, ⟨rfl, rfl, .inr rfl⟩, ⟨_, rfl, rfl, rfl⟩, ⟨_, rfl, rfl, rfl, rfl⟩, ⟨_, rfl, rfl, by decide⟩,
    ⟨_, rfl, by decide⟩, ⟨_, rfl, rfl, rfl⟩, ⟨_, rfl⟩, ⟨_, rfl⟩⟩

/-- A run of three words from reset, with each premise: none is an enable, though one is a valid SERVO_PERIOD (its width
is not accepted); none is a fault-free poll. -/
theorem witness_NothingDrivesBeforeFaultPollAndEnable :
    (∃ a b t, step { State.reset with inputs := [.command 0x31014E20, .command 0x50000000, .command 0x23010000] } = .next a ∧
      step a = .next b ∧ step b = .next t ∧
      ({ State.reset with inputs := [.command 0x31014E20] } : State).nextInstr = some (.servoPeriod 20000 true) ∧
      enables (.servoPeriod 20000 true) State.reset = false ∧
      a.nextInstr = some (.faultPoll false) ∧ enables (.faultPoll false) a = false ∧
      b.nextInstr = some (.commStep 1) ∧ enables (.commStep 1) b = false) ∧
    (∃ a b t, step { State.reset with inputs := [.command 0x24000001, .command 0x50000001, .command 0x23010000] } = .next a ∧
      step a = .next b ∧ step b = .next t ∧
      ({ State.reset with inputs := [.command 0x24000001] } : State).nextInstr = some (.setEnable true) ∧
      a.nextInstr = some (.faultPoll true) ∧ b.nextInstr = some (.commStep 1)) ∧
    stagesEnabled (.servoPeriod 20000 true) = false ∧ stagesEnabled (.faultPoll false) = false ∧
    stagesEnabled (.commStep 1) = false :=
  ⟨⟨_, _, _, rfl, rfl, rfl, rfl, by decide, rfl, rfl, rfl, rfl⟩, ⟨_, _, _, rfl, rfl, rfl, rfl, rfl, rfl⟩, rfl, rfl, rfl⟩

/-- The outputs of KV1, staged and active, as a COMM_STEP leaves them. -/
def commutated : State :=
  { driving with staged := triple 1000 false 1250 true 750 true, active := triple 1000 false 1250 true 750 true }

/-- A driven state that meets the premise, and steps from it: an iteration, a SYNC_MODES, and one that coasts. -/
theorem witness_EveryStepKeepsTheCommutatorsPatterns :
    commutated.CommutatorOnly ∧ stagesChannel (.commStep 1) = false ∧ stagesChannel .syncModes = false ∧
    (∃ t, step { commutated with inputs := [.command 0x23010000] } = .next t ∧ decode 0x23010000 = .ok (.commStep 1)) ∧
    (∃ t, step { commutated with inputs := [.command 0x42000000] } = .next t ∧ decode 0x42000000 = .ok .syncModes) ∧
    ∃ t, step { commutated with enabled := false, inputs := [.command 0x23010000] } = .next t ∧ allDisabled t.active = true :=
  ⟨⟨by decide, by decide, by decide, rfl, .inr (.inr ⟨250, by decide, by decide, .A, .B, .C, by decide⟩)⟩, rfl, rfl,
    ⟨_, rfl, rfl⟩, ⟨_, rfl, rfl⟩, ⟨_, rfl, rfl⟩⟩

/-- `g` true and false; after the step it stays, is set anew by an iteration either way, and is forgotten by a reset. -/
theorem witness_OutputsFollowTheLastCommStep :
    (commutated.staged = commutated.active ∧ anyEnabled commutated.active = true ∧
      (∃ t, step { commutated with drvFault := true, inputs := [.command 0x23010000] } = .next t ∧
        ({ commutated with drvFault := true, inputs := [.command 0x23010000] } : State).gateAfter true = false) ∧
      (∃ t, step { commutated with drvFault := true, inputs := [.command 0x40000000] } = .next t ∧
        ({ commutated with drvFault := true, inputs := [.command 0x40000000] } : State).gateAfter true = true) ∧
      ∃ t, step { commutated with inputs := [.reset none] } = .next t ∧
        ({ commutated with inputs := [.reset none] } : State).gateAfter true = false) ∧
    (driving.staged = driving.active ∧ anyEnabled driving.active = false ∧
      ∃ t, step { driving with inputs := [.command 0x23010000] } = .next t ∧
        ({ driving with inputs := [.command 0x23010000] } : State).gateAfter false = true) :=
  ⟨⟨rfl, rfl, ⟨_, rfl, rfl⟩, ⟨_, rfl, rfl⟩, ⟨_, rfl, rfl⟩⟩, rfl, rfl, ⟨_, rfl, rfl⟩⟩

theorem witness_OneStepOfEachSequencerSettles :
    ({ turning with rotorPending := true } : State).Running ∧ turning.commPending = true := by decide

theorem witness_SpeedFromTicksFitsVelocity32 :
    highConfig.wf = true ∧ speedFromTicks highConfig 1 = 2147418112 ∧ speedFromTicks lowConfig 65535 = 1 := by decide

/-- The premises on the ranges, at CFG_REF and at the tightest deadband; the three clauses at both ends of each: 1483
and 1517, 1518 and 1800, 1482 and 1200. -/
theorem witness_MapRangeExactValue :
    ((1200 : Int) < 1800 ∧ (-1000 : Int) ≤ 1000 ∧ (1500 : Int) = 1200 + Int.tdiv (1800 - 1200) 2 ∧
      (0 : Int) = -1000 + Int.tdiv (1000 - -1000) 2 ∧ (17 : Int) < 1800 - 1500 ∧ (299 : Int) < 1500 - 1200) ∧
    ((1500 - 17 : Int) ≤ 1483 ∧ (1517 : Int) ≤ 1500 + 17) ∧
    ((1500 + 17 : Int) < 1518 ∧ (1518 : Int) ≤ 1800 ∧ (1800 : Int) ≤ 1800) ∧
    ((1482 : Int) < 1500 - 17 ∧ (1200 : Int) ≤ 1482 ∧ (1200 : Int) < 1500 - 17) := by decide

/-- The premises on the ranges, at CFG_REF and at the tightest deadband; the ends of the last clauses. -/
theorem witness_MapRangeProperties :
    (0 : Int) ≤ 17 ∧ (17 : Int) < 1800 - average 1200 1800 ∧ (17 : Int) < average 1200 1800 - 1200 ∧
    (299 : Int) < 1800 - average 1200 1800 ∧ (299 : Int) < average 1200 1800 - 1200 ∧
    average 1200 1800 = 1500 ∧ average (-1000) 1000 = 0 ∧ (1200 : Int) ≤ 1482 ∧ (1482 : Int) ≤ 1518 := by decide

/-- The operands at their bounds, a target beyond the slew bound and within it, and the period and the limit at 0. -/
theorem witness_SlewStepIsBounded :
    (Config.ref.wf = true ∧ absOf (-1000) ≤ Config.ref.maxAmp ∧ absOf 1000 ≤ Config.ref.maxAmp ∧
      Config.ref.slewLimit * 65535 / (Config.ref.servoCaptureFreqHz / 1000) = 655) ∧
    (Config.ref.slewLimit * 20000 / (Config.ref.servoCaptureFreqHz / 1000) = 200 ∧ absOf (469 - 500) ≤ 200) ∧
    Config.ref.slewLimit * 0 / (Config.ref.servoCaptureFreqHz / 1000) = 0 ∧
    (lowConfig.wf = true ∧ lowConfig.slewLimit = 0) := by decide

end Sys2Proof.Tests
end

section
/-! The state after reset (spec/10_state.md R47): its channel registers and its two output streams. -/

namespace Sys2Proof

/-- Every phase of a constant triple holds the one value. -/
@[simp] theorem PerPhase.get_const {α : Type} (x : α) (p : Phase) : (PerPhase.const x).get p = x := by
  cases p <;> rfl

end Sys2Proof

namespace Sys2Proof.Machine

@[simp] theorem State.reset_staged : State.reset.staged = PerPhase.const channelOff := rfl

@[simp] theorem State.reset_active : State.reset.active = PerPhase.const channelOff := rfl

@[simp] theorem State.reset_logPort : State.reset.logPort = [] := rfl

@[simp] theorem State.reset_resp : State.reset.resp = none := rfl

/-- At reset every staged and every active channel register is `(0, 0)`. -/
theorem State.reset_channels_off (p : Phase) :
    State.reset.staged.get p = channelOff ∧ State.reset.active.get p = channelOff :=
  ⟨by rw [State.reset_staged, PerPhase.get_const], by rw [State.reset_active, PerPhase.get_const]⟩

/-- Settles O11. The sixteen scalar elements are the literals of `State.reset`; the channel registers are uniform over
the phases, and both output streams are empty. -/
theorem resetStateIsTheTableOfR47 : Obligations.ResetStateIsTheTableOfR47 := by
  unfold Obligations.ResetStateIsTheTableOfR47
  refine ⟨?hallCur, ?hallPrev, ?countsElapsed, ?hallOverflow, ?velocity, ?direction, ?rotorPending, ?semiAmplitude,
    ?enabled, ?drvFault, ?commPending, ?halted, ?servoWidth, ?servoPeriod, ?servoOvfCount, ?lastAmplitude,
    State.reset_channels_off, State.reset_logPort, State.reset_resp⟩
  all_goals rfl

end Sys2Proof.Machine
end

section
/-! Angle arithmetic (spec/40_math.md R101, R102): `wrap16` takes the integers onto the ring of 16-bit words, so the
angle functions are that ring's addition and subtraction. -/

namespace Sys2Proof.Machine

theorem wrap16_add (x y : Int) : wrap16 (x + y) = wrap16 x + wrap16 y := BitVec.ofInt_add x y

@[simp] theorem wrap16_natCast_toNat (a : BitVec 16) : wrap16 (a.toNat : Int) = a := by
  rw [wrap16, BitVec.ofInt_natCast, BitVec.ofNat_toNat, BitVec.setWidth_eq]

@[simp] theorem wrap16_toInt (a : BitVec 16) : wrap16 a.toInt = a := BitVec.ofInt_toInt

theorem angleAdd_eq_add (a b : Angle16) : angleAdd a b = a + b := by
  rw [angleAdd, wrap16_add, wrap16_natCast_toNat, wrap16_natCast_toNat]

/-- `AngleAdd` modulo a full circle (R101). -/
theorem angleAdd_toNat (a b : Angle16) : (angleAdd a b).toNat = (a.toNat + b.toNat) % 65536 := by
  rw [angleAdd_eq_add, BitVec.toNat_add]

/-- `AngleSub` modulo a full circle (R101), the residue of a possibly negative difference. -/
theorem angleSub_toNat (a b : Angle16) : ((angleSub a b).toNat : Int) = ((a.toNat : Int) - b.toNat) % 65536 :=
  wrap16_toNat _

/-- Turning by half a circle twice is no turn. -/
theorem angleAdd_opposite_opposite (a : Angle16) : angleAdd (angleAdd a 32768) 32768 = a := by
  have fullCircle : (32768 : BitVec 16) + 32768 = 0 := by decide
  rw [angleAdd_eq_add, angleAdd_eq_add, BitVec.add_assoc, fullCircle, add_zero]

/-- `AngleDiff` fits an s16 (R102). -/
theorem angleDiff_bounds (a b : Angle16) : -32768 ≤ angleDiff a b ∧ angleDiff a b ≤ 32767 :=
  ⟨BitVec.le_toInt _, BitVec.toInt_le⟩

/-- `AngleDiff a b` leads from `b` to `a` (R102). -/
theorem wrap16_add_angleDiff (a b : Angle16) : wrap16 ((b.toNat : Int) + angleDiff a b) = a := by
  rw [wrap16_add, angleDiff, wrap16_toInt, angleSub, ← wrap16_add, add_sub_cancel, wrap16_natCast_toNat]

/-- Settles O54: the two wraps, the involution and the signed difference, each by its own lemma. -/
theorem angleArithmeticWraps : Obligations.AngleArithmeticWraps := by
  unfold Obligations.AngleArithmeticWraps
  intro a b
  obtain ⟨hlo, hhi⟩ := angleDiff_bounds a b
  exact ⟨angleAdd_toNat a b, angleSub_toNat a b, angleAdd_opposite_opposite a, hlo, hhi, wrap16_add_angleDiff a b⟩

end Sys2Proof.Machine
end

section
/-! `MapRange` (spec/40_math.md R111): its value in each of the three ranges of the input. On its domain a scaled
distance never exceeds the half range it is scaled to, so the final clamp changes nothing. -/

namespace Sys2Proof.Machine

/-- Scaling by a proper fraction `k / n`, product first, gives at most the whole. -/
theorem tdiv_mul_bounds {k n r : Int} (hn : 0 < n) (hk : 0 ≤ k) (hkn : k ≤ n) (hr : 0 ≤ r) :
    0 ≤ tdiv (k * r) n ∧ tdiv (k * r) n ≤ r := by
  have hkr : 0 ≤ k * r := Int.mul_nonneg hk hr
  refine ⟨Int.tdiv_nonneg hkr hn.le, ?_⟩
  rw [tdiv, Int.tdiv_eq_ediv_of_nonneg hkr]
  refine Int.ediv_le_of_le_mul hn ?_
  calc k * r ≤ n * r := Int.mul_le_mul_of_nonneg_right hkn hr
    _ = r * n := Int.mul_comm n r

theorem tdiv_neg_mul (k r n : Int) : tdiv (-k * r) n = -tdiv (k * r) n := by
  rw [tdiv, tdiv, Int.neg_mul, Int.neg_tdiv]

theorem deadbanded_within {d deadband : Int} (hlo : -deadband ≤ d) (hhi : d ≤ deadband) : deadbanded d deadband = 0 :=
  if_pos (absOf_le.mpr ⟨hlo, hhi⟩)

theorem deadbanded_above {d deadband : Int} (h0 : 0 ≤ deadband) (h : deadband < d) :
    deadbanded d deadband = d - deadband := by
  rw [deadbanded, if_neg (by rw [absOf_le]; omega), if_pos (by omega)]

theorem deadbanded_below {d deadband : Int} (h0 : 0 ≤ deadband) (h : d < -deadband) :
    deadbanded d deadband = d + deadband := by
  rw [deadbanded, if_neg (by rw [absOf_le]; omega), if_neg (by omega)]

section
variable {inLow inHigh x outLow outHigh deadband : Int}

/-- Within the deadband `MapRange` answers the output centre. -/
theorem mapRange_within (hout : outLow ≤ outHigh) (hlo : average inLow inHigh - deadband ≤ x)
    (hhi : x ≤ average inLow inHigh + deadband) :
    mapRange inLow inHigh x outLow outHigh deadband = average outLow outHigh := by
  obtain ⟨hCl, hCh⟩ := average_mem hout
  have hc : deadbanded (x - average inLow inHigh) deadband = 0 := deadbanded_within (by omega) (by omega)
  simp only [mapRange, hc, if_true]
  exact clamp_of_mem hCl hCh

/-- Above the deadband the distance beyond it is scaled from the upper half of the input to that of the output. -/
theorem mapRange_above (hout : outLow ≤ outHigh) (h0 : 0 ≤ deadband) (hx : x ≤ inHigh)
    (h : average inLow inHigh + deadband < x) :
    mapRange inLow inHigh x outLow outHigh deadband = average outLow outHigh +
      tdiv ((x - average inLow inHigh - deadband) * (outHigh - average outLow outHigh))
        (inHigh - average inLow inHigh - deadband) := by
  obtain ⟨hCl, hCh⟩ := average_mem hout
  have hpos : 0 < x - average inLow inHigh - deadband := by omega
  obtain ⟨hq0, hqr⟩ := tdiv_mul_bounds (k := x - average inLow inHigh - deadband)
    (n := inHigh - average inLow inHigh - deadband) (r := outHigh - average outLow outHigh)
    (by omega) hpos.le (by omega) (by omega)
  have hc := deadbanded_above (d := x - average inLow inHigh) h0 (by omega)
  simp only [mapRange, hc, hpos.ne', gt_iff_lt, hpos, if_true, if_false]
  exact clamp_of_mem (by omega) (by omega)

/-- Below the deadband the (negative) distance beyond it is scaled from the lower half of the input to that of the
output. -/
theorem mapRange_below (hout : outLow ≤ outHigh) (h0 : 0 ≤ deadband) (hx : inLow ≤ x)
    (h : x < average inLow inHigh - deadband) :
    mapRange inLow inHigh x outLow outHigh deadband = average outLow outHigh +
      tdiv ((x - average inLow inHigh + deadband) * (average outLow outHigh - outLow))
        (average inLow inHigh - inLow - deadband) := by
  obtain ⟨hCl, hCh⟩ := average_mem hout
  have hneg : x - average inLow inHigh + deadband < 0 := by omega
  obtain ⟨hq0, hqr⟩ := tdiv_mul_bounds (k := -(x - average inLow inHigh + deadband))
    (n := average inLow inHigh - inLow - deadband) (r := average outLow outHigh - outLow)
    (by omega) (by omega) (by omega) (by omega)
  rw [tdiv_neg_mul] at hq0 hqr
  have hc := deadbanded_below (d := x - average inLow inHigh) h0 (by omega)
  simp only [mapRange, hc, hneg.ne, gt_iff_lt, hneg.not_gt, if_false]
  exact clamp_of_mem (by omega) (by omega)

end

/-- Settles O58, by the three ranges of the input: the centres of the statement are `average`, written out. -/
theorem mapRangeExactValue : Obligations.MapRangeExactValue := by
  unfold Obligations.MapRangeExactValue
  intro inLow inHigh x outLow outHigh deadband inC outC _ hout h0 hlo hhi hinC houtC _ _
  have hin : inC = average inLow inHigh := hinC
  have hmid : outC = average outLow outHigh := houtC
  subst hin hmid
  exact ⟨mapRange_within hout, mapRange_above hout h0 hhi, mapRange_below hout h0 hlo⟩

end Sys2Proof.Machine
end

section
/-! The slew limiter (spec/40_math.md R113): a change clamped to a symmetric bound keeps its sign and never
overshoots. -/

namespace Sys2Proof.Machine

theorem clamp_symm_bounds_of_nonneg {d m : Int} (hm : 0 ≤ m) (hd : 0 ≤ d) :
    0 ≤ clamp d (-m) m ∧ clamp d (-m) m ≤ d := by
  rw [clamp, if_neg (by omega)]
  split <;> omega

theorem clamp_symm_bounds_of_nonpos {d m : Int} (hm : 0 ≤ m) (hd : d ≤ 0) :
    d ≤ clamp d (-m) m ∧ clamp d (-m) m ≤ 0 := by
  unfold clamp
  split
  · omega
  · rw [if_neg (by omega)]; omega

/-- Nothing may change over a period of 0 or with a limit of 0. -/
theorem slewBound_eq_zero {c : Config} {period : Nat} (h : period = 0 ∨ c.slewLimit = 0) : slewBound c period = 0 := by
  obtain rfl | h := h
  · rw [slewBound, Nat.mul_zero, Nat.zero_div]
  · rw [slewBound, h, Nat.zero_mul, Nat.zero_div]

section
variable {c : Config} {last target : Int} {period : Nat}

theorem slewStep_of_le (h : last ≤ target) :
    last ≤ slewStep c last target period ∧ slewStep c last target period ≤ target := by
  have := clamp_symm_bounds_of_nonneg (Int.natCast_nonneg (slewBound c period)) (sub_nonneg.mpr h)
  rw [slewStep]; omega

theorem slewStep_of_ge (h : target ≤ last) :
    target ≤ slewStep c last target period ∧ slewStep c last target period ≤ last := by
  have := clamp_symm_bounds_of_nonpos (Int.natCast_nonneg (slewBound c period)) (sub_nonpos.mpr h)
  rw [slewStep]; omega

/-- The change of one pulse is within the slew bound. -/
theorem absOf_slewStep_sub_le : absOf (slewStep c last target period - last) ≤ slewBound c period := by
  rw [slewStep, add_sub_cancel_left, absOf_le]
  exact clamp_bounds (by omega)

/-- A bound on both ends bounds the step, which lies between them. -/
theorem absOf_slewStep_le {b : Int} (hl : absOf last ≤ b) (ht : absOf target ≤ b) :
    absOf (slewStep c last target period) ≤ b := by
  rw [absOf_le] at hl ht ⊢
  obtain h | h := Int.le_total last target
  · have := slewStep_of_le (c := c) (period := period) h
    omega
  · have := slewStep_of_ge (c := c) (period := period) h
    omega

/-- A target within the slew bound is reached in one step. -/
theorem slewStep_reaches (h : absOf (target - last) ≤ slewBound c period) : slewStep c last target period = target := by
  obtain ⟨hlo, hhi⟩ := absOf_le.mp h
  rw [slewStep, clamp_of_mem hlo hhi, Int.add_comm, Int.sub_add_cancel]

theorem slewStep_eq_last (h : slewBound c period = 0) : slewStep c last target period = last := by
  have hle := absOf_slewStep_sub_le (c := c) (last := last) (target := target) (period := period)
  rw [h, absOf_le] at hle
  omega

end

/-- Settles O60: the bound of the statement is `slewBound`, written out; the rest is the limiter's own lemmas. -/
theorem slewStepIsBounded : Obligations.SlewStepIsBounded := by
  unfold Obligations.SlewStepIsBounded
  intro c last target period m _ hlast htarget _ hm
  have hbound : m = slewBound c period := hm
  subst hbound
  exact ⟨rfl, absOf_slewStep_sub_le, slewStep_of_le, slewStep_of_ge, absOf_slewStep_le hlast htarget, slewStep_reaches,
    fun h => slewStep_eq_last (slewBound_eq_zero h)⟩

end Sys2Proof.Machine
end

section
/-! The rotor's configuration: the clauses of R7 that its rules rest on, the six-cycle of `HALL_NEXT` (R122) and the
angles of the valid codes (R121). -/

namespace Sys2Proof

/-- The eleven checks of R7, taken apart. -/
theorem Config.wf_iff {c : Config} :
    c.wf = true ↔
      c.wfPwmPeriod = true ∧ c.wfHallFreq = true ∧ c.wfCountMax = true ∧ c.wfServoFreq = true ∧
      c.wfServoRange = true ∧ c.wfServoMargin = true ∧ c.wfSlewLimit = true ∧ c.wfOvfLimit = true ∧
      c.wfHallAngle = true ∧ c.wfHallNext = true ∧ c.wfCommTable = true := by
  simp only [Config.wf, Bool.and_eq_true, and_assoc]

theorem mem_validCodes {k : HallCode} : k ∈ validCodes ↔ validCode k = true := by
  revert k; decide

/-- `HALL_K` fits the positive half of a Velocity32 (R110), by the bound on the capture frequency. -/
theorem Config.hallK_lt {c : Config} (hw : c.wf = true) : c.hallK < 2 ^ 31 := by
  obtain ⟨-, hfreq, -⟩ := Config.wf_iff.mp hw
  simp only [Config.wfHallFreq, Bool.and_eq_true, decide_eq_true_eq] at hfreq
  rw [Config.hallK]
  omega

/-- A valid code has an angle (R7(i), R121). -/
theorem Config.exists_hallAngleAt {c : Config} (hw : c.wf = true) {k : HallCode} (hk : validCode k = true) :
    ∃ a, c.hallAngleAt k = some a := by
  obtain ⟨-, -, -, -, -, -, -, -, hangle, -, -⟩ := Config.wf_iff.mp hw
  simp only [Config.wfHallAngle, Bool.and_eq_true, List.all_eq_true] at hangle
  obtain ⟨⟨-, hsome⟩, -⟩ := hangle
  exact Option.isSome_iff_exists.mp (hsome k (mem_validCodes.mpr hk))

/-- The first code met from `k` is its successor. -/
theorem Config.hallOrbit_getElem?_zero (c : Config) (n : Nat) (k : HallCode) :
    (c.hallOrbit (n + 1) k)[0]? = c.hallNextAt k := by
  rw [Config.hallOrbit]
  cases c.hallNextAt k <;> rfl

/-- Each later code met is the successor of the one before it. -/
theorem Config.hallOrbit_getElem?_succ (c : Config) {n i : Nat} (k : HallCode) (h : i + 1 < n) :
    (c.hallOrbit n k)[i + 1]? = (c.hallOrbit n k)[i]?.bind c.hallNextAt := by
  induction n generalizing i k with
  | zero => omega
  | succ n ih =>
    rw [Config.hallOrbit]
    cases c.hallNextAt k with
    | none => rfl
    | some k' =>
      cases i with
      | zero =>
        obtain ⟨m, rfl⟩ : ∃ m, n = m + 1 := ⟨n - 1, by omega⟩
        exact c.hallOrbit_getElem?_zero m k'
      | succ i => exact ih k' (by omega)

/-- `HALL_NEXT` is one six-cycle (R7(i), R122): the codes met from code 1 are the six valid ones, each once, and the
successor of each stands in the next place, the first after the last. -/
theorem Config.hallOrbit_sixCycle {c : Config} (hw : c.wf = true) :
    (c.hallOrbit 6 1).length = 6 ∧ (c.hallOrbit 6 1).Nodup ∧
    (∀ k, validCode k = true → k ∈ c.hallOrbit 6 1) ∧
    ∀ i < 6, (c.hallOrbit 6 1)[i]?.bind c.hallNextAt = (c.hallOrbit 6 1)[(i + 1) % 6]? := by
  obtain ⟨-, -, -, -, -, -, -, -, -, hnext, -⟩ := Config.wf_iff.mp hw
  simp only [Config.wfHallNext, Bool.and_eq_true, decide_eq_true_eq, List.all_eq_true] at hnext
  obtain ⟨⟨⟨hlen, hnodup⟩, hvalid⟩, hlast⟩ := hnext
  refine ⟨hlen, hnodup, fun k hk => ?covers, fun i hi => ?rotates⟩
  case covers =>
    have hsub : c.hallOrbit 6 1 ⊆ validCodes := fun j hj => mem_validCodes.mpr (hvalid j hj)
    have hperm := (List.subperm_of_subset hnodup hsub).perm_of_length_le hlen.ge
    exact hperm.mem_iff.mpr (mem_validCodes.mpr hk)
  case rotates =>
    obtain h | rfl : i + 1 < 6 ∨ i = 5 := by omega
    · rw [Nat.mod_eq_of_lt h, c.hallOrbit_getElem?_succ 1 h]
    · rw [List.getLast?_eq_getElem?, hlen] at hlast
      rw [hlast]
      exact (c.hallOrbit_getElem?_zero 5 1).symm

/-- No two codes are each other's successor: a six-cycle has no two-cycle. -/
theorem Config.hallNextAt_not_symm {c : Config} (hw : c.wf = true) {p q : HallCode} (hp : validCode p = true)
    (hpq : c.hallNextAt p = some q) : c.hallNextAt q ≠ some p := by
  obtain ⟨hlen, hnodup, hcovers, hrotates⟩ := Config.hallOrbit_sixCycle hw
  intro hqp
  obtain ⟨i, hi⟩ := List.mem_iff_getElem?.mp (hcovers p hp)
  obtain ⟨hlt, -⟩ := List.getElem?_eq_some_iff.mp hi
  have hi6 : i < 6 := by omega
  have hq := hrotates i hi6
  rw [hi, Option.bind_some, hpq] at hq
  have hback := hrotates ((i + 1) % 6) (by omega)
  rw [← hq, Option.bind_some, hqp, ← hi] at hback
  have := (List.getElem?_inj hlt hnodup).mp hback
  omega

end Sys2Proof
end

section
/-! The rotor estimator (spec/41_rotor.md R124 to R129): the exact signed speed, the classification, and one lemma per
branch of an iteration of its sequencer; each operation's result is its `Effect` at the branch. -/

namespace Sys2Proof.Machine

theorem narrow32_toInt {x : Int} (hlo : -2 ^ 31 ≤ x) (hhi : x < 2 ^ 31) : (narrow32 x).toInt = x :=
  BitVec.toInt_ofInt_eq_self (by decide) hlo hhi

/-- A signed speed is narrowed without loss (R110, R116). -/
theorem narrow32_signedSpeed_toInt {c : Config} (hw : c.wf = true) (d : Direction) (t : Nat) :
    (narrow32 (d.sign * speedFromTicks c t)).toInt = d.sign * ((c.hallK / t : Nat) : Int) := by
  have hspeed : speedFromTicks c t < 2 ^ 31 := (Nat.div_le_self c.hallK t).trans_lt (Config.hallK_lt hw)
  refine narrow32_toInt ?_ ?_ <;> cases d <;> simp only [Direction.sign] <;> omega

section
variable {c : Config} {p q : HallCode}

/-- The two tests of R127 in their order, as propositions. -/
theorem classifyDirection_eq_ite (c : Config) (p q : HallCode) :
    classifyDirection c p q =
      if validCode p = true ∧ validCode q = true ∧ c.hallNextAt p = some q then .forward
      else if validCode p = true ∧ validCode q = true ∧ c.hallNextAt q = some p then .reverse
      else .unknown := by
  simp only [classifyDirection, Bool.and_eq_true, beq_iff_eq, and_assoc]

theorem classifyDirection_eq_forward :
    classifyDirection c p q = .forward ↔ validCode p = true ∧ validCode q = true ∧ c.hallNextAt p = some q := by
  rw [classifyDirection_eq_ite]
  split_ifs with hf hr <;> simp [hf]

/-- The forward test comes first, and in a well-formed table it takes no reverse pair. -/
theorem classifyDirection_eq_reverse (hw : c.wf = true) :
    classifyDirection c p q = .reverse ↔ validCode p = true ∧ validCode q = true ∧ c.hallNextAt q = some p := by
  rw [classifyDirection_eq_ite]
  split_ifs with hf hr
  · obtain ⟨hp, -, hpq⟩ := hf
    simp [Config.hallNextAt_not_symm hw hp hpq]
  · simp [hr]
  · simp [hr]

theorem classifyDirection_eq_unknown :
    classifyDirection c p q = .unknown ↔
      ¬ (validCode p = true ∧ validCode q = true ∧ (c.hallNextAt p = some q ∨ c.hallNextAt q = some p)) := by
  rw [classifyDirection_eq_ite, and_or_left, and_or_left]
  split_ifs with hf hr
  · simp [hf]
  · simp [hr]
  · simp [hf, hr]

end

/-- Settles O16: the reverse test is exact because the six-cycle of the table has no two-cycle. -/
theorem classifyDirectionIsTheNeighbourTest : Obligations.ClassifyDirectionIsTheNeighbourTest := by
  unfold Obligations.ClassifyDirectionIsTheNeighbourTest
  intro c p q hw
  exact ⟨classifyDirection_eq_forward, classifyDirection_eq_reverse hw, classifyDirection_eq_unknown⟩

section
variable {s : State}

/-- A zero tick count: no edge to measure (R126). -/
theorem rotorUpdate_of_no_edge (h : s.countsElapsed = 0) : rotorUpdate s = setVelocity 0 .unknown s := if_pos h

/-- A transition that cannot be classified is logged (R126). -/
theorem rotorUpdate_of_glitch (h : s.countsElapsed ≠ 0)
    (hd : classifyDirection s.cfg s.hallPrev s.hallCur = .unknown) :
    rotorUpdate s = setVelocity 0 .unknown (emit (.glitch s.hallPrev s.hallCur) s) := by
  rw [rotorUpdate, if_neg h, hd]

/-- A classified transition gives the signed speed (R126). -/
theorem rotorUpdate_of_classified (h : s.countsElapsed ≠ 0)
    (hd : classifyDirection s.cfg s.hallPrev s.hallCur ≠ .unknown) :
    rotorUpdate s =
      setVelocity ((classifyDirection s.cfg s.hallPrev s.hallCur).sign * speedFromTicks s.cfg s.countsElapsed.toNat)
        (classifyDirection s.cfg s.hallPrev s.hallCur) s := by
  rw [rotorUpdate, if_neg h]
  cases hc : classifyDirection s.cfg s.hallPrev s.hallCur with
  | unknown => exact absurd hc hd
  | _ => rfl

/-- A pending iteration of the rotor sequencer runs on the state with its signal consumed. -/
theorem exec_rotorStep_of_pending (hw : s.cfg.wf = true) (hh : s.halted = false) (hp : s.rotorPending = true) :
    exec .rotorStep s = .next (respond .ok 0 (rotorUpdate (consumeRotor s))) :=
  exec_of_effect hw hh (.inr ⟨hp, rfl⟩)

end

/-- Settles O15: the iteration's three branches, each from the state with the signal consumed. -/
theorem rotorStepResult : Obligations.RotorStepResult := by
  unfold Obligations.RotorStepResult
  intro s hs
  obtain ⟨hw, hh⟩ := hs
  refine ⟨fun hp => ?idle, fun hp hz => ?noEdge, fun hp hnz hd => ?glitch, fun d hd hp hnz hc => ?classified⟩
  case idle => exact exec_of_effect hw hh (.inl ⟨hp, rfl⟩)
  case noEdge =>
    rw [exec_rotorStep_of_pending hw hh hp, rotorUpdate_of_no_edge (s := consumeRotor s) hz]
    rfl
  case glitch =>
    rw [exec_rotorStep_of_pending hw hh hp, rotorUpdate_of_glitch (s := consumeRotor s) hnz hd]
    rfl
  case classified =>
    subst hc
    refine ⟨_, narrow32_signedSpeed_toInt hw _ _, ?_⟩
    rw [exec_rotorStep_of_pending hw hh hp, rotorUpdate_of_classified (s := consumeRotor s) hnz hd]
    rfl

section
variable {c : Config} {cached live : HallCode}

/-- The angle comes from the cached code if that is valid (R128). -/
theorem computeAngle_of_cached_valid (h : validCode cached = true) {a : Angle16}
    (ha : c.hallAngleAt cached = some a) : computeAngle c cached live = .ok (some a) := by
  simp [computeAngle, h, ha]

/-- With an invalid cached code the angle comes from the live one if that is valid (R128). -/
theorem computeAngle_of_live_valid (h : validCode cached = false) (hl : validCode live = true) {a : Angle16}
    (ha : c.hallAngleAt live = some a) : computeAngle c cached live = .ok (some a) := by
  simp [computeAngle, h, hl, ha]

/-- With both codes invalid there is no angle (R128). -/
theorem computeAngle_of_both_invalid (h : validCode cached = false) (hl : validCode live = false) :
    computeAngle c cached live = .ok none := by
  simp [computeAngle, h, hl]

end

/-- Settles O18: the entry that is read exists, since a well-formed table has an angle for every valid code. -/
theorem computeAngleResult : Obligations.ComputeAngleResult := by
  unfold Obligations.ComputeAngleResult
  intro s live hs
  obtain ⟨hw, hh⟩ := hs
  refine ⟨fun hcur => ?cached, fun hcur hlive => ?live, fun hcur hlive => ?none⟩
  case cached =>
    obtain ⟨a, ha⟩ := Config.exists_hallAngleAt hw hcur
    exact ⟨a, ha, exec_of_effect hw hh (.inl ⟨a, computeAngle_of_cached_valid hcur ha, rfl⟩)⟩
  case live =>
    obtain ⟨a, ha⟩ := Config.exists_hallAngleAt hw hlive
    exact ⟨a, ha, exec_of_effect hw hh (.inl ⟨a, computeAngle_of_live_valid hcur hlive ha, rfl⟩)⟩
  case none => exact exec_of_effect hw hh (.inr ⟨computeAngle_of_both_invalid hcur hlive, rfl⟩)

/-- While the estimate does not exceed the last interval the cached velocity is returned (R129). -/
theorem queriedVelocity_of_fresh {now : Width16} {s : State} (h : elapsedEstimate now s ≤ s.countsElapsed.toNat) :
    queriedVelocity now s = s.velocity := if_neg h.not_gt

/-- A stale estimate bounds the speed anew (R129). -/
theorem queriedVelocity_of_stale {now : Width16} {s : State} (h : elapsedEstimate now s > s.countsElapsed.toNat) :
    queriedVelocity now s = narrow32 (s.direction.sign * speedFromTicks s.cfg (elapsedEstimate now s)) := if_pos h

/-- Settles O19: the estimate of the statement is `elapsedEstimate`, written out. -/
theorem computeVelocityResult : Obligations.ComputeVelocityResult := by
  unfold Obligations.ComputeVelocityResult
  intro s now hs
  obtain ⟨hw, hh⟩ := hs
  refine ⟨fun hfail => exec_of_effect hw hh (.inl ⟨hfail, rfl⟩), fun t ht hedge hdir => ?_⟩
  have hest : t = elapsedEstimate now s := ht
  subst hest
  have hanswer : exec (.computeVelocity now) s = .next (answered .ok (queriedVelocity now s) s) :=
    exec_of_effect hw hh (.inr ⟨not_or.mpr ⟨hedge, hdir⟩, rfl⟩)
  refine ⟨fun hfresh => ?fresh, fun hstale => ?stale⟩
  case fresh => rw [hanswer, queriedVelocity_of_fresh hfresh]
  case stale =>
    rw [queriedVelocity_of_stale hstale] at hanswer
    exact ⟨_, narrow32_signedSpeed_toInt hw _ _, hanswer⟩

/-- Settles O13, by the two branches of the edge: debounced or accepted. -/
theorem hallEdgeResult : Obligations.HallEdgeResult := by
  unfold Obligations.HallEdgeResult
  intro s code ticks hs
  obtain ⟨hw, hh⟩ := hs
  exact ⟨fun hrepeat => exec_of_effect hw hh (.inl ⟨hrepeat, rfl⟩),
    fun hnew => exec_of_effect hw hh (.inr ⟨hnew, rfl⟩)⟩

/-- Settles O14: the one update of the operation is the flag. -/
theorem hallOvfResult : Obligations.HallOvfResult := by
  unfold Obligations.HallOvfResult
  intro s hs
  obtain ⟨hw, hh⟩ := hs
  exact exec_of_effect hw hh rfl

end Sys2Proof.Machine
end

section
/-! The commutator (spec/42_commutator.md R141 to R147, R181): the bound that the period sets on every width, the six
sectors of the offset angle, the driven pattern phase by phase, and one lemma for what a pending iteration commits. -/

namespace Sys2Proof

/-- The period fits a u16 (R7(a)). -/
theorem Config.pwmPeriod_le {c : Config} (hw : c.wf = true) : c.pwmPeriod ≤ 65535 := by
  obtain ⟨hperiod, -⟩ := Config.wf_iff.mp hw
  simp only [Config.wfPwmPeriod, Bool.and_eq_true, decide_eq_true_eq] at hperiod
  obtain ⟨-, hle⟩ := hperiod
  exact hle

/-- `MAXAMP` fits the positive half of an s16 (R114), by the bound on the period. -/
theorem Config.maxAmp_le {c : Config} (hw : c.wf = true) : c.maxAmp ≤ 32767 := by
  have := Config.pwmPeriod_le hw
  rw [Config.maxAmp]
  omega

/-- A function applied for each phase is applied to the value of each. -/
@[simp] theorem PerPhase.get_map {α β : Type} (f : α → β) (t : PerPhase α) (p : Phase) :
    (t.map f).get p = f (t.get p) := by
  cases p <;> rfl

end Sys2Proof

namespace Sys2Proof.Machine

/-- A number that fits a u16 is narrowed without loss. -/
theorem narrow16_toNat {x : Int} (hlo : 0 ≤ x) (hhi : x ≤ 65535) : ((narrow16 x).toNat : Int) = x :=
  (wrap16_toNat x).trans (Int.emod_eq_of_lt hlo (by omega))

/-- A number that fits an s16 is narrowed without loss. -/
theorem narrow16_toInt {x : Int} (hlo : -2 ^ 15 ≤ x) (hhi : x < 2 ^ 15) : (narrow16 x).toInt = x :=
  BitVec.toInt_ofInt_eq_self (by decide) hlo hhi

/-- An s16 result keeps its value in a response (R87). -/
theorem valueS16_toInt (x : BitVec 16) : (valueS16 x).toInt = x.toInt := BitVec.toInt_signExtend_of_le (by decide)

/-- A u16 result keeps its value in a response (R87). -/
theorem valueU16_toNat (x : BitVec 16) : (valueU16 x).toNat = x.toNat :=
  BitVec.toNat_setWidth_of_le (by decide)

/-- Settles O21: each operation has one update, the flag it writes. -/
theorem signalChangeAndSetEnableResults : Obligations.SignalChangeAndSetEnableResults := by
  unfold Obligations.SignalChangeAndSetEnableResults
  intro s hs
  obtain ⟨hw, hh⟩ := hs
  exact ⟨exec_of_effect hw hh rfl, fun _ => exec_of_effect hw hh rfl⟩

/-- Settles O22: the two branches of the precondition; the magnitude of -32768 is one more than any `MAXAMP`. -/
theorem writeAmplitudeResult : Obligations.WriteAmplitudeResult := by
  unfold Obligations.WriteAmplitudeResult
  intro s v hs
  obtain ⟨hw, hh⟩ := hs
  refine ⟨fun hle => exec_of_effect hw hh (.inr ⟨hle.not_gt, rfl⟩),
    fun hgt => exec_of_effect hw hh (.inl ⟨hgt, rfl⟩), ?_⟩
  have hmin : absOf (s16 0x8000) = 32768 := by decide
  have := Config.maxAmp_le hw
  omega

/-- Settles O23: both parameters fit the 16 bits they are answered through. -/
theorem parameterQueriesResults : Obligations.ParameterQueriesResults := by
  unfold Obligations.ParameterQueriesResults
  intro s hs
  obtain ⟨hw, hh⟩ := hs
  refine ⟨⟨_, ?maxAmplitude, exec_of_effect hw hh rfl⟩, ⟨_, ?period, exec_of_effect hw hh rfl⟩⟩
  case maxAmplitude =>
    have := Config.maxAmp_le hw
    rw [valueS16_toInt, narrow16_toInt (by omega) (by omega)]
    rfl
  case period =>
    have := Config.pwmPeriod_le hw
    rw [valueU16_toNat, BitVec.toNat_ofNat, Nat.mod_eq_of_lt (by omega)]

section
variable {angle : Angle16}

/-- The offset of R144, as a residue. -/
theorem offsetAngle_toNat (angle : Angle16) :
    (angleAdd angle (BitVec.ofNat 16 offset30)).toNat = (angle.toNat + 5461) % 65536 := angleAdd_toNat _ _

/-- In the lower half-circle the thirds are read off directly (R144). -/
theorem bucket_of_lower {a : Nat} (ha : a = (angle.toNat + 5461) % 65536) (h : a < 32768) :
    bucket angle = (if a < 10923 then .zero else if a < 21845 then .one else .two, false) := by
  have hoff := (offsetAngle_toNat angle).trans ha.symm
  have hhalf : ¬ t180 ≤ a := h.not_ge
  simp only [bucket, hoff, hhalf, decide_false, Bool.false_eq_true, if_false]
  rfl

/-- In the upper half-circle the thirds are folded back by half a circle and the roles swap (R144). -/
theorem bucket_of_upper {a : Nat} (ha : a = (angle.toNat + 5461) % 65536) (h : 32768 ≤ a) :
    bucket angle = (if a - 32768 < 10923 then .zero else if a - 32768 < 21845 then .one else .two, true) := by
  have hoff := (offsetAngle_toNat angle).trans ha.symm
  have hhalf : t180 ≤ a := h
  simp only [bucket, hoff, hhalf, decide_true, if_true]
  rfl

end

/-- Settles O24: three thirds of each half-circle. -/
theorem bucketRanges : Obligations.BucketRanges := by
  unfold Obligations.BucketRanges
  intro angle a ha
  refine ⟨fun hhi => ?zero, fun hlo hhi => ?one, fun hlo hhi => ?two, fun hlo hhi => ?zeroSwapped,
    fun hlo hhi => ?oneSwapped, fun hlo => ?twoSwapped⟩
  case zero => rw [bucket_of_lower ha (by omega), if_pos (by omega)]
  case one => rw [bucket_of_lower ha (by omega), if_neg (by omega), if_pos (by omega)]
  case two => rw [bucket_of_lower ha (by omega), if_neg (by omega), if_neg (by omega)]
  case zeroSwapped => rw [bucket_of_upper ha hlo, if_pos (by omega)]
  case oneSwapped => rw [bucket_of_upper ha (by omega), if_neg (by omega), if_pos (by omega)]
  case twoSwapped => rw [bucket_of_upper ha (by omega), if_neg (by omega), if_neg (by omega)]

/-- Each phase is driven by its role, with the two widths swapped in the upper half-circle (R146). -/
theorem drivenPattern_get (c : Config) (amplitude : Int) (angle : Angle16) (p : Phase) :
    (drivenPattern c amplitude angle).get p =
      roleChannel (if (bucket angle).2 then c.maxAmp - amplitude else c.maxAmp + amplitude)
        (if (bucket angle).2 then c.maxAmp + amplitude else c.maxAmp - amplitude) c.maxAmp
        ((c.commTable.get (bucket angle).1).get p) := by
  simp only [drivenPattern]
  split <;> exact PerPhase.get_map _ _ p

section
variable {c : Config} {cached live : HallCode}

/-- A valid `angleCode` is the entry of the table that is read (R128). -/
theorem computeAngle_of_valid (h : validCode (angleCode cached live) = true) {a : Angle16}
    (ha : c.hallAngleAt (angleCode cached live) = some a) : computeAngle c cached live = .ok (some a) := by
  rw [angleCode] at h ha
  simp only [computeAngle, h, ha, if_true]

/-- With an invalid `angleCode` there is no angle (R128). -/
theorem computeAngle_of_invalid (h : validCode (angleCode cached live) = false) :
    computeAngle c cached live = .ok none := by
  rw [angleCode] at h
  simp only [computeAngle, h, Bool.false_eq_true, if_false]

end

section
variable {s : State} {angle : Angle16}

/-- Disabled or faulty, the phases coast (R146). -/
theorem commPattern_of_gate_closed (h : s.enabled = false ∨ s.drvFault = true) :
    commPattern s (some angle) = coastPattern :=
  if_pos (by simpa only [Bool.or_eq_true, Bool.not_eq_true'] using h)

section
variable (he : s.enabled = true) (hf : s.drvFault = false)
include he hf

/-- Amplitude 0 brakes (R146). -/
theorem commPattern_of_zero (hz : s.semiAmplitude = 0) : commPattern s (some angle) = brakePattern := by
  simp only [commPattern, he, hf, hz, Bool.not_true, Bool.or_self, Bool.false_eq_true, if_false, if_true]

/-- Any other amplitude drives (R146). -/
theorem commPattern_of_nonzero (hnz : s.semiAmplitude ≠ 0) :
    commPattern s (some angle) = drivenPattern s.cfg (s16 s.semiAmplitude) angle := by
  simp only [commPattern, he, hf, hnz, Bool.not_true, Bool.or_self, Bool.false_eq_true, if_false]

end

end

section
variable {s : State} {live : HallCode} (hw : s.cfg.wf = true) (hh : s.halted = false) (hp : s.commPending = true)
include hw hh hp

/-- A pending iteration without an angle commits the coast pattern and logs the fault (R146). -/
theorem exec_commStep_of_no_angle (h : validCode (angleCode s.hallCur live) = false) :
    exec (.commStep live) s = .next { answered .ok 0 s with
      commPending := false
      staged := coastPattern
      active := coastPattern
      commits := s.commits ++ [coastPattern]
      log := s.log ++ [.angleFault] } :=
  exec_of_effect hw hh (.inr ⟨hp, none, computeAngle_of_invalid h, rfl⟩)

/-- A pending iteration with an angle consumes the signal and commits its pattern (R146). -/
theorem exec_commStep_of_angle {angle : Angle16} (h : validCode (angleCode s.hallCur live) = true)
    (ha : s.cfg.hallAngleAt (angleCode s.hallCur live) = some angle) {t : PerPhase Channel}
    (ht : commPattern s (some angle) = t) :
    exec (.commStep live) s = .next { answered .ok 0 s with
      commPending := false, staged := t, active := t, commits := s.commits ++ [t] } := by
  subst ht
  exact exec_of_effect hw hh (.inr ⟨hp, some angle, computeAngle_of_valid h ha, rfl⟩)

end

/-- Settles O25: what a pending iteration commits is `commPattern`, branch by branch; the widths of the driven pattern
fit 16 bits because the amplitude is within `MAXAMP`. -/
theorem commStepResult : Obligations.CommStepResult := by
  unfold Obligations.CommStepResult
  intro s live hs
  obtain ⟨hw, hh⟩ := hs
  refine ⟨fun hp => exec_of_effect hw hh (.inl ⟨hp, rfl⟩), exec_commStep_of_no_angle hw hh,
    fun hp hv hgate => ?coast, fun hp hv he hf hz => ?brake, fun hp hv he hf hnz hamp => ?drive⟩
  case coast =>
    obtain ⟨angle, ha⟩ := Config.exists_hallAngleAt hw hv
    exact exec_commStep_of_angle hw hh hp hv ha (commPattern_of_gate_closed hgate)
  case brake =>
    obtain ⟨angle, ha⟩ := Config.exists_hallAngleAt hw hv
    exact exec_commStep_of_angle hw hh hp hv ha (commPattern_of_zero he hf hz)
  case drive =>
    obtain ⟨angle, ha⟩ := Config.exists_hallAngleAt hw hv
    refine ⟨angle, _, ha, exec_commStep_of_angle hw hh hp hv ha (commPattern_of_nonzero he hf hnz), ?_⟩
    intro half pos neg p hhalf hpos hneg
    have hmax := Config.maxAmp_le hw
    obtain ⟨hlo, hhi⟩ := absOf_le.mp hamp
    subst hhalf
    rw [drivenPattern_get, ← hpos, ← hneg]
    obtain ⟨hpos0, hposFits⟩ : 0 ≤ pos ∧ pos ≤ 65535 := by rw [hpos]; split <;> omega
    obtain ⟨hneg0, hnegFits⟩ : 0 ≤ neg ∧ neg ≤ 65535 := by rw [hneg]; split <;> omega
    cases (s.cfg.commTable.get (bucket angle).1).get p with
    | pos => exact ⟨narrow16_toNat hpos0 hposFits, rfl⟩
    | neg => exact ⟨narrow16_toNat hneg0 hnegFits, rfl⟩
    | float => exact ⟨narrow16_toNat (by omega) (by omega), rfl⟩

end Sys2Proof.Machine
end

section
/-! The throttle (spec/43_throttle.md R161 to R165): the qualification of a pulse as a proposition, the bound on its
amplitude that lets it fit the registers, and the two branches of the throttle update and of the watchdog. -/

namespace Sys2Proof.Machine

/-- The final clamp keeps every value of `MapRange` in the output range (R111). -/
theorem mapRange_bounds {inLow inHigh x outLow outHigh deadband : Int} (hout : outLow ≤ outHigh) :
    outLow ≤ mapRange inLow inHigh x outLow outHigh deadband ∧
    mapRange inLow inHigh x outLow outHigh deadband ≤ outHigh :=
  clamp_bounds hout

theorem absOf_throttleTarget_le (c : Config) (width : Width16) : absOf (throttleTarget c width) ≤ c.maxAmp :=
  absOf_le.mpr (mapRange_bounds (by omega))

section
variable {c : Config} {last : Width16Diff} (hlast : absOf (s16 last) ≤ c.maxAmp) (width period : Width16)
include hlast

/-- The slew limiter moves between two amplitudes that are both within `MAXAMP`. -/
theorem absOf_throttleAmplitude_le : absOf (throttleAmplitude c last width period) ≤ c.maxAmp :=
  absOf_slewStep_le hlast (absOf_throttleTarget_le c width)

/-- The amplitude of a pulse is narrowed without loss (R114, R164). -/
theorem narrow16_throttleAmplitude_toInt (hw : c.wf = true) :
    (narrow16 (throttleAmplitude c last width period)).toInt = throttleAmplitude c last width period := by
  obtain ⟨hlo, hhi⟩ := absOf_le.mp (absOf_throttleAmplitude_le hlast width period)
  have := Config.maxAmp_le hw
  exact narrow16_toInt (by omega) (by omega)

end

/-- A pulse qualifies if it is valid and its width is within the margins of the servo range (R164). -/
theorem valid_and_widthAccepted_iff {c : Config} {width : Width16} {valid : Bool} :
    (valid && widthAccepted c width) = true ↔
      valid = true ∧ (c.servoLow : Int) - c.servoMargin ≤ width.toNat ∧
        (width.toNat : Int) ≤ c.servoHigh + c.servoMargin := by
  simp only [widthAccepted, Bool.and_eq_true, decide_eq_true_eq]
  exact Iff.rfl

section
variable {s : State} {width period : Width16} {valid : Bool}

theorem throttleUpdate_of_qualifying (h : (valid && widthAccepted s.cfg width) = true) :
    throttleUpdate width period valid s = throttleValid width period s := if_pos h

theorem throttleUpdate_of_not_qualifying (h : ¬ (valid && widthAccepted s.cfg width) = true) :
    throttleUpdate width period valid s = throttleInvalid s := if_neg h

/-- SERVO_PERIOD on a running block judges the latched width, after the period is written (R162). -/
theorem exec_servoPeriod (hw : s.cfg.wf = true) (hh : s.halted = false) (period : Width16) (valid : Bool) :
    exec (.servoPeriod period valid) s =
      .next (respond .ok 0 (throttleUpdate s.servoWidth period valid (setServoPeriod period s))) :=
  exec_of_effect hw hh rfl

/-- SERVO_OVF on a running block runs the watchdog (R163). -/
theorem exec_servoOvf (hw : s.cfg.wf = true) (hh : s.halted = false) :
    exec .servoOvf s = .next (respond .ok 0 (servoOverflow s)) := exec_of_effect hw hh rfl

theorem servoOverflow_of_lt (h : (satInc8 s.servoOvfCount).toNat < s.cfg.servoOvfLimit) :
    servoOverflow s = setServoOvfCount (satInc8 s.servoOvfCount) s := if_neg h.not_ge

theorem servoOverflow_of_ge (h : s.cfg.servoOvfLimit ≤ (satInc8 s.servoOvfCount).toNat) :
    servoOverflow s = throttleInvalid (setServoOvfCount (satInc8 s.servoOvfCount) s) := if_pos h

end

/-- Settles O30: the one update of the operation is the width. -/
theorem servoWidthResult : Obligations.ServoWidthResult := by
  unfold Obligations.ServoWidthResult
  intro s w hs
  obtain ⟨hw, hh⟩ := hs
  exact exec_of_effect hw hh rfl

/-- Settles O31, by the two branches of the throttle update; the amplitude of a qualifying pulse is `throttleAmplitude`,
which is within `MAXAMP` and so fits both registers. -/
theorem servoPeriodResult : Obligations.ServoPeriodResult := by
  unfold Obligations.ServoPeriodResult
  intro s period valid hs hlast
  obtain ⟨hw, hh⟩ := hs
  rw [← valid_and_widthAccepted_iff, exec_servoPeriod hw hh]
  refine ⟨fun hqualifies => ?qualifying, fun hnot => ?notQualifying⟩
  case qualifying =>
    have hamp := narrow16_throttleAmplitude_toInt hlast s.servoWidth period hw
    refine ⟨_, hamp, ?_, ?_⟩
    · rw [hamp]
      exact absOf_throttleAmplitude_le hlast s.servoWidth period
    · rw [throttleUpdate_of_qualifying (s := setServoPeriod period s) hqualifies]
      rfl
  case notQualifying =>
    rw [throttleUpdate_of_not_qualifying (s := setServoPeriod period s) hnot]
    rfl

/-- Settles O32: the count is the saturating successor, and the two sides of the limit are the watchdog's branches. -/
theorem servoOvfResult : Obligations.ServoOvfResult := by
  unfold Obligations.ServoOvfResult
  intro s hs
  obtain ⟨hw, hh⟩ := hs
  rw [exec_servoOvf hw hh]
  refine ⟨satInc8 s.servoOvfCount, satInc8_toNat _, fun hbelow => ?below, fun hlimit => ?limit⟩
  case below =>
    rw [servoOverflow_of_lt hbelow]
    rfl
  case limit =>
    rw [servoOverflow_of_ge hlimit]
    rfl

end Sys2Proof.Machine
end

section
/-! The inverter's channel registers (spec/44_inverter.md R182, R183): what one phase's register holds after a write to
it and to another phase. -/

namespace Sys2Proof

section
variable {α : Type} (t : PerPhase α) {p q : Phase} (x : α)

/-- The phase written takes the value. -/
@[simp] theorem PerPhase.get_set_same : (t.set p x).get p = x := by
  cases p <;> rfl

/-- The other two phases keep theirs. -/
theorem PerPhase.get_set_of_ne (h : q ≠ p) : (t.set p x).get q = t.get q := by
  cases p <;> cases q
  case A.A | B.B | C.C => exact absurd rfl h
  all_goals rfl

end

end Sys2Proof

namespace Sys2Proof.Machine

/-- Settles O33: the one update of the operation sets the phase in the staged triple, with no test of the width. -/
theorem writeChannelResult : Obligations.WriteChannelResult := by
  unfold Obligations.WriteChannelResult
  intro s p w e hs
  obtain ⟨hw, hh⟩ := hs
  exact ⟨s.staged.set p { width := w, enabled := e }, exec_of_effect hw hh rfl, s.staged.get_set_same _,
    fun _ hq => s.staged.get_set_of_ne _ hq⟩

/-- Settles O34: the one update of the operation is the commit, of the three phases at once. -/
theorem syncModesResult : Obligations.SyncModesResult := by
  unfold Obligations.SyncModesResult
  intro s hs
  obtain ⟨hw, hh⟩ := hs
  exact exec_of_effect hw hh rfl

end Sys2Proof.Machine
end

section
/-! The power-stage fault gate (spec/45_supervisor.md R191): what a poll of the gate driver does on a running block. -/

namespace Sys2Proof.Machine

/-- Settles O35: the one effect of the operation latches the polled result and posts the change signal, whichever result
it is. -/
theorem faultPollResult : Obligations.FaultPollResult := by
  unfold Obligations.FaultPollResult
  intro s f hs
  obtain ⟨hw, hh⟩ := hs
  have effect : Effect (.faultPoll f) s (respond .ok 0 (postComm (setDrvFault f s))) := rfl
  exact exec_of_effect hw hh effect

end Sys2Proof.Machine
end

section
/-! Legal words (spec/30_encoding.md R83, R85): the fields of R81 under a mask, and that the word of every operation the
decoder finds is selected by a row of the operation map. -/

namespace Sys2Proof

/-- The mask of the `len` bits of a command word from bit `start` up. -/
def fieldMask (start len : Nat) : Word := (BitVec.allOnes len).setWidth 32 <<< start

/-- What a field's mask keeps of a word is the field, in its place. -/
theorem and_fieldMask (w : Word) (start len : Nat) :
    w &&& fieldMask start len = (w.extractLsb' start len).setWidth 32 <<< start := by
  apply BitVec.eq_of_getLsbD_eq
  intro i hi
  simp only [fieldMask, BitVec.getLsbD_and, BitVec.getLsbD_shiftLeft, BitVec.getLsbD_setWidth, BitVec.getLsbD_allOnes,
    BitVec.getLsbD_extractLsb']
  by_cases hs : i < start
  · simp [hs]
  · rw [Nat.add_sub_cancel' (by omega)]
    simp only [Bool.and_comm, Bool.and_left_comm, Bool.and_assoc]

section
variable {w : Word}

theorem and_opMask : w &&& fieldMask 24 8 = (opField w).setWidth 32 <<< 24 := and_fieldMask w 24 8

theorem and_fieldMask_eq_zero {start len : Nat} (h : w.extractLsb' start len = 0) : w &&& fieldMask start len = 0 := by
  rw [and_fieldMask, h]
  simp

theorem clearF0_mask (h : clearF0 w = true) : w &&& fieldMask 0 24 = 0 := and_fieldMask_eq_zero (eq_of_beq h)

theorem clearFH_mask (h : clearFH w = true) : w &&& fieldMask 19 5 = 0 := and_fieldMask_eq_zero (eq_of_beq h)

theorem clearF16_mask (h : clearF16 w = true) : w &&& fieldMask 16 8 = 0 := and_fieldMask_eq_zero (eq_of_beq h)

theorem clearF17_mask (h : clearF17 w = true) : w &&& fieldMask 17 7 = 0 := and_fieldMask_eq_zero (eq_of_beq h)

theorem clearF1_mask (h : clearF1 w = true) : w &&& fieldMask 1 23 = 0 := and_fieldMask_eq_zero (eq_of_beq h)

/-- Format FL has its reserved bits on both sides of the operand. -/
theorem clearFL_mask (h : clearFL w = true) : w &&& (fieldMask 19 5 ||| fieldMask 0 16) = 0 := by
  obtain ⟨hhigh, hlow⟩ := Bool.and_eq_true_iff.mp h
  rw [BitVec.and_or_distrib_left, and_fieldMask_eq_zero (eq_of_beq hhigh), and_fieldMask_eq_zero (eq_of_beq hlow),
    BitVec.or_self]

theorem phaseField_ne_three {p : Phase} (h : phaseField w = some p) : w.extractLsb' 16 2 ≠ 3 := by
  intro h3
  simp [phaseField, h3] at h

/-- A word that carries an operation number and passes the test of its reserved bits is legal, where that number with
the mask of those bits is a row of the operation map. -/
theorem legalWord_of_ifClear {n : Nat} {m : Word} {b c : Bool} {i j : Instr} (hop : (opField w).toNat = n)
    (h : ifClear c j = .ok i) (hm : c = true → w &&& m = 0) (hphase : b = false ∨ w.extractLsb' 16 2 ≠ 3)
    (hrow : (⟨n, (n : BitVec 8).setWidth 32 <<< 24, fieldMask 24 8 ||| m, b⟩ : OpRow) ∈ opTable) :
    legalWord w = true := by
  have hmask : w &&& (fieldMask 24 8 ||| m) = (n : BitVec 8).setWidth 32 <<< 24 := by
    have hopField : opField w = n := by
      rw [← hop, BitVec.natCast_eq_ofNat, BitVec.ofNat_toNat, BitVec.setWidth_eq]
    rw [BitVec.and_or_distrib_left, and_opMask, hopField, hm (ifClear_ok.mp h).1]
    exact BitVec.or_zero
  refine List.any_eq_true.mpr ⟨_, hrow, ?_⟩
  simpa [OpRow.selects, hmask] using hphase

/-- A word that decodes is legal: each arm of the decoder has its row in the operation map. -/
theorem legalWord_of_decode {i : Instr} (h : decode w = .ok i) : legalWord w = true := by
  unfold decode at h
  split at h <;> rename_i hop
  -- the arms by format (R81): F0, FH, FL, F16, F17, F1; then FC, whose phase must name one; then no operation
  case h_2 | h_3 | h_6 | h_8 | h_13 | h_14 | h_16 =>
    exact legalWord_of_ifClear hop h clearF0_mask (.inl rfl) (by decide)
  case h_1 => exact legalWord_of_ifClear hop h clearFH_mask (.inl rfl) (by decide)
  case h_4 | h_9 => exact legalWord_of_ifClear hop h clearFL_mask (.inl rfl) (by decide)
  case h_5 | h_7 | h_11 => exact legalWord_of_ifClear hop h clearF16_mask (.inl rfl) (by decide)
  case h_12 => exact legalWord_of_ifClear hop h clearF17_mask (.inl rfl) (by decide)
  case h_10 | h_17 => exact legalWord_of_ifClear hop h clearF1_mask (.inl rfl) (by decide)
  case h_15 =>
    split at h
    · rename_i hp
      exact legalWord_of_ifClear (b := true) hop h clearFH_mask (.inr (phaseField_ne_three hp)) (by decide)
    · cases h
  case h_18 => cases h

/-- A word that no row selects does not decode. -/
theorem exists_decode_error (h : legalWord w = false) : ∃ e, decode w = .error e := by
  cases hd : decode w with
  | error e => exact ⟨e, rfl⟩
  | ok i => rw [legalWord_of_decode hd] at h; cases h

end

end Sys2Proof
end

section
/-! The exceptions (spec/60_exceptions.md R208, R211, R212): how a step takes a command word and a reset, the answer to
an illegal word and to a word in a halted block, and what may write the halted latch. -/

namespace Sys2Proof.Machine

section
variable {s t : State} {w : Word} {rest : List PortInput}

theorem step_of_command (hw : s.cfg.wf = true) (hi : s.inputs = .command w :: rest) :
    step s = runWord w (acceptWord w rest s) := by
  simp [step, hw, hi, runInput]

theorem step_of_reset {p : Option Word} (hw : s.cfg.wf = true) (hi : s.inputs = .reset p :: rest) :
    step s = .next (resetBlock (takeInput rest s)) := by
  simp [step, hw, hi, runInput]

theorem runWord_of_halted (hh : s.halted = true) : runWord w s = .next (respond .halted 0 s) := by
  simp [runWord, hh, answer]

theorem runWord_of_illegal (hw : s.cfg.wf = true) (hh : s.halted = false) (hl : legalWord w = false) :
    runWord w s = .next (respond .illegal 0 s) := by
  obtain ⟨e, he⟩ := exists_decode_error hl
  simp [runWord, hh, he, answerIllegal, operate_running hw hh, answer]

end

/-- Settles O8: an illegal word does not decode, so a running block answers it and does nothing else. -/
theorem illegalWordOnlyAnswersIllegal : Obligations.IllegalWordOnlyAnswersIllegal := by
  unfold Obligations.IllegalWordOnlyAnswersIllegal
  intro s w rest hs hi hl
  obtain ⟨hw, hh⟩ := hs
  rw [step_of_command hw hi]
  exact runWord_of_illegal hw hh hl

@[simp] theorem rotorUpdate_halted (s : State) : (rotorUpdate s).halted = s.halted := by
  obtain ⟨v, d, h⟩ | ⟨v, d, e, h⟩ := rotorUpdate_cases s <;> rw [h] <;> rfl

@[simp] theorem commUpdate_halted (angle : Option Angle16) (s : State) : (commUpdate angle s).halted = s.halted := by
  rw [commUpdate_eq]

@[simp] theorem throttleUpdate_halted (width period : Width16) (valid : Bool) (s : State) :
    (throttleUpdate width period valid s).halted = s.halted := by
  obtain ⟨_, h⟩ | ⟨_, h⟩ := throttleUpdate_cases width period valid s <;> rw [h] <;> rfl

@[simp] theorem servoOverflow_halted (s : State) : (servoOverflow s).halted = s.halted := by
  obtain ⟨_, h⟩ | ⟨_, h⟩ := servoOverflow_cases s <;> rw [h] <;> rfl

/-- An operation of a running block keeps the halted latch, unless it is a WRITE_AMPLITUDE out of range (R211). -/
theorem Effect.halted_eq_or_outOfRange {i : Instr} {s t : State} (h : Effect i s t) :
    t.halted = s.halted ∨ ∃ v, i = .writeAmplitude v ∧ absOf (s16 v) > s.cfg.maxAmp := by
  cases i with
  | writeAmplitude v =>
    obtain ⟨hgt, -⟩ | ⟨-, rfl⟩ := h
    · exact .inr ⟨v, rfl, hgt⟩
    · exact .inl rfl
  | hallEdge | rotorStep | computeVelocity =>
    left
    obtain ⟨-, rfl⟩ | ⟨-, rfl⟩ := h <;> simp
  | computeAngle live =>
    left
    obtain ⟨a, -, rfl⟩ | ⟨-, rfl⟩ := h <;> rfl
  | commStep live =>
    left
    obtain ⟨-, rfl⟩ | ⟨-, angle, -, rfl⟩ := h <;> simp
  | _ =>
    left
    obtain rfl := h
    simp

/-- Settles O9: the effect of an out-of-range WRITE_AMPLITUDE is the halt entry, every other effect keeps the latch, and
a halted block answers a word before it is decoded. -/
theorem haltEntryAndHaltedBlock : Obligations.HaltEntryAndHaltedBlock := by
  unfold Obligations.HaltEntryAndHaltedBlock
  refine ⟨?entry, ?cause, ?halted⟩
  case entry =>
    intro s v hs hgt
    obtain ⟨hw, hh⟩ := hs
    exact exec_of_effect hw hh (.inl ⟨hgt, rfl⟩)
  case cause =>
    intro i s t hs h ht
    obtain ⟨-, ⟨hh, -⟩ | ⟨-, he⟩⟩ := exec_next h
    · simp [hs] at hh
    · exact he.halted_eq_or_outOfRange.resolve_left (by simp [hs, ht])
  case halted =>
    intro s w rest hw hh hi
    rw [step_of_command hw hi]
    exact runWord_of_halted hh

/-- After a reset every PWM output is disabled at width 0, the halted pin is low, there is no response and the log is
empty. -/
theorem resetBlock_outputs (s : State) :
    (∀ q : Phase, (resetBlock s).pwmEnable q = false ∧ (resetBlock s).pwmWidth q = 0) ∧
      (resetBlock s).haltedPin = false ∧ (resetBlock s).resp = none ∧ (resetBlock s).logPort = [] := by
  refine ⟨fun q => ?_, rfl, State.reset_resp, State.reset_logPort⟩
  have hoff : (resetBlock s).active.get q = channelOff := (State.reset_channels_off q).2
  rw [State.pwmEnable, State.pwmWidth, hoff]
  exact ⟨rfl, rfl⟩

/-- Settles O10: the step of an asserted reset is `resetBlock`, and of the four things a step can do no other clears the
halted latch: with nothing presented nothing changes, and a halted block only answers a word. -/
theorem resetInputIsTheOnlyWayOutOfHalt : Obligations.ResetInputIsTheOnlyWayOutOfHalt := by
  unfold Obligations.ResetInputIsTheOnlyWayOutOfHalt
  refine ⟨?state, ?outputs, ?only⟩
  case state =>
    intro s p rest hw hi
    exact ⟨_, step_of_reset hw hi, rfl⟩
  case outputs =>
    intro s t p rest hi h
    obtain ⟨hw, -⟩ := step_next h
    rw [step_of_reset hw hi] at h
    cases h
    exact resetBlock_outputs _
  case only =>
    intro s t hs h ht
    obtain ⟨-, ⟨-, rfl⟩ | ⟨_, _, _, -, rfl, -⟩ | ⟨_, _, _, -, -, hh, -⟩ | ⟨p, rest, hi, -⟩⟩ := step_effect h
    · simp [hs] at ht
    · simp [hs] at ht
    · simp [hs] at hh
    · exact ⟨p, rest, hi⟩

end Sys2Proof.Machine
end

section
/-! The two directions of the encoding (spec/30_encoding.md R80 to R83): every command word is `wordOf` of three fields,
and the decoder accepts exactly the words whose three fields are those of an instruction. -/

namespace Sys2Proof

/-- A boolean as a field of `n` bits, 1 = true (R82). -/
def flagField (n : Nat) (b : Bool) : BitVec n := (BitVec.ofBool b).setWidth n

theorem flagField_getLsbD_zero {n : Nat} (b : Bool) : (flagField (n + 1) b).getLsbD 0 = b := by simp [flagField]

/-- The `W[18:16]` that an instruction is encoded with (R81): its code, or its flag over its phase. -/
def Instr.f3 : Instr → BitVec 3
  | .hallEdge code _ => code
  | .computeAngle live | .commStep live => live
  | .servoPeriod _ valid => flagField 3 valid
  | .writeChannel phase _ enabled => flagField 3 enabled <<< 2 ||| phaseBits phase
  | _ => 0

/-- The `W[15:0]` that an instruction is encoded with (R81). -/
def Instr.f16 : Instr → BitVec 16
  | .hallEdge _ x | .computeVelocity x | .writeAmplitude x | .servoWidth x | .servoPeriod x _ | .writeChannel _ x _ => x
  | .setEnable b | .faultPoll b => flagField 16 b
  | _ => 0

theorem wordOf_or_f3 (op : BitVec 8) (f g : BitVec 3) (x : BitVec 16) :
    wordOf op f x ||| g.setWidth 32 <<< 16 = wordOf op (g ||| f) x := by
  rw [wordOf, wordOf, BitVec.setWidth_or, BitVec.shiftLeft_or_distrib, BitVec.or_comm (g.setWidth 32 <<< 16),
    BitVec.or_assoc, BitVec.or_comm (x.setWidth 32), ← BitVec.or_assoc, BitVec.or_assoc (op.setWidth 32 <<< 24)]

theorem wordOf_or_f16 (op : BitVec 8) (f : BitVec 3) (x y : BitVec 16) :
    wordOf op f x ||| y.setWidth 32 = wordOf op f (x ||| y) := by
  rw [wordOf, wordOf, BitVec.setWidth_or, BitVec.or_assoc]

/-- The flags of formats F1, F17 and FC stand in a field of `wordOf`. -/
theorem flagBit_eq (b : Bool) :
    flagBit b = (flagField 16 b).setWidth 32 ∧ flagBit b <<< 16 = (flagField 3 b).setWidth 32 <<< 16 ∧
      flagBit b <<< 18 = (flagField 3 b <<< 2).setWidth 32 <<< 16 := by
  cases b <;> decide

/-- The word of an instruction is made of its operation number and its two fields. -/
theorem encode_eq_wordOf (i : Instr) : encode i = wordOf i.op i.f3 i.f16 := by
  cases i with
  | setEnable b | faultPoll b =>
    obtain ⟨hb, -, -⟩ := flagBit_eq b
    rw [encode, hb, wordOf_or_f16]
    exact congrArg _ BitVec.zero_or
  | servoPeriod x b =>
    obtain ⟨-, hb, -⟩ := flagBit_eq b
    rw [encode, hb, wordOf_or_f3]
    exact congrArg (wordOf _ · _) BitVec.or_zero
  | writeChannel p x b =>
    obtain ⟨-, -, hb⟩ := flagBit_eq b
    rw [encode, hb, wordOf_or_f3]
    rfl
  | _ => rfl

section
variable {w : Word}

/-- A field of a field is a field. -/
theorem extractLsb'_extractLsb' {start len start' len' : Nat} (h : start' + len' ≤ len) :
    (w.extractLsb' start len).extractLsb' start' len' = w.extractLsb' (start + start') len' := by
  apply BitVec.eq_of_getLsbD_eq
  intro i hi
  simp only [BitVec.getLsbD_extractLsb', hi, show start' + i < len by omega, decide_true, Bool.true_and, Nat.add_assoc]

/-- Bits that are clear are clear in two parts. -/
theorem extractLsb'_eq_zero_iff {start a b : Nat} :
    w.extractLsb' start (b + a) = 0 ↔ w.extractLsb' (start + a) b = 0 ∧ w.extractLsb' start a = 0 := by
  constructor
  · intro h
    have hlow := extractLsb'_extractLsb' (w := w) (start := start) (len := b + a) (start' := 0) (len' := a) (by omega)
    have hhigh := extractLsb'_extractLsb' (w := w) (start := start) (len := b + a) (start' := a) (len' := b) (by omega)
    rw [h] at hlow hhigh
    exact ⟨hhigh.symm.trans BitVec.extractLsb'_zero, hlow.symm.trans BitVec.extractLsb'_zero⟩
  · rintro ⟨hhigh, hlow⟩
    rw [← BitVec.extractLsb'_append_extractLsb'_eq_extractLsb' rfl, hlow, hhigh]
    exact BitVec.zero_append_zero

/-- All bits of a field above the lowest are clear if the field is a flag. -/
theorem extractLsb'_one_eq_zero_iff {n : Nat} {x : BitVec (n + 1)} :
    x.extractLsb' 1 n = 0 ↔ x = flagField (n + 1) (x.getLsbD 0) := by
  constructor
  · intro h
    apply BitVec.eq_of_getLsbD_eq
    intro i hi
    cases i with
    | zero => rw [flagField_getLsbD_zero]
    | succ i =>
      have hbit := congrArg (BitVec.getLsbD · i) h
      simpa [flagField, show i < n by omega, Nat.add_comm 1 i] using hbit
  · intro h
    rw [h]
    apply BitVec.eq_of_getLsbD_eq
    intro i hi
    simp [flagField]

theorem bit0_eq : bit0 w = (f16Field w).getLsbD 0 := by simp [bit0, f16Field]

theorem bit16_eq : bit16 w = (f3Field w).getLsbD 0 := by simp [bit16, f3Field]

theorem bit18_eq : bit18 w = (f3Field w).getLsbD 2 := by simp [bit18, f3Field]

theorem clearFL_iff : clearFL w = true ↔ clearFH w = true ∧ f16Field w = 0 := by
  simp only [clearFL, clearFH, f16Field, Bool.and_eq_true, beq_iff_eq]

theorem clearF16_iff : clearF16 w = true ↔ clearFH w = true ∧ f3Field w = 0 := by
  simp only [clearF16, clearFH, beq_iff_eq]
  exact extractLsb'_eq_zero_iff (start := 16) (a := 3) (b := 5)

theorem clearF0_iff : clearF0 w = true ↔ clearFH w = true ∧ f3Field w = 0 ∧ f16Field w = 0 := by
  rw [← and_assoc, ← clearF16_iff]
  simp only [clearF0, clearF16, beq_iff_eq]
  exact extractLsb'_eq_zero_iff (start := 0) (a := 16) (b := 8)

theorem clearF17_iff : clearF17 w = true ↔ clearFH w = true ∧ f3Field w = flagField 3 (bit16 w) := by
  have hflag : (f3Field w).extractLsb' 1 2 = w.extractLsb' 17 2 := extractLsb'_extractLsb' (by decide)
  rw [bit16_eq, ← extractLsb'_one_eq_zero_iff, hflag]
  simp only [clearF17, clearFH, beq_iff_eq]
  exact extractLsb'_eq_zero_iff (start := 17) (a := 2) (b := 5)

theorem clearF1_iff :
    clearF1 w = true ↔ clearFH w = true ∧ f3Field w = 0 ∧ f16Field w = flagField 16 (bit0 w) := by
  have hflag : (f16Field w).extractLsb' 1 15 = w.extractLsb' 1 15 := extractLsb'_extractLsb' (by decide)
  rw [← and_assoc, ← clearF16_iff, bit0_eq, ← extractLsb'_one_eq_zero_iff, hflag]
  simp only [clearF1, clearF16, beq_iff_eq]
  exact extractLsb'_eq_zero_iff (start := 1) (a := 15) (b := 8)

/-- A word names phase `p` if its `W[18:16]` is `p` under its flag (format FC). -/
theorem phaseField_eq_some_iff {p : Phase} :
    phaseField w = some p ↔ f3Field w = flagField 3 (bit18 w) <<< 2 ||| phaseBits p := by
  have hphase : (f3Field w).extractLsb' 0 2 = w.extractLsb' 16 2 := extractLsb'_extractLsb' (by decide)
  rw [phaseField, ← hphase, bit18_eq]
  generalize f3Field w = f
  revert f
  cases p <;> decide

/-- The decoder accepts a word as `i` exactly when `W[23:19]` is clear and the three fields are those of `i`. -/
theorem decode_eq_ok_iff {i : Instr} :
    decode w = .ok i ↔ clearFH w = true ∧ opField w = i.op ∧ f3Field w = i.f3 ∧ f16Field w = i.f16 := by
  constructor
  · intro h
    unfold decode at h
    split at h <;> rename_i hop
    -- the arms by format (R81): FH, F0, FL, F16, F17, F1; then FC, whose phase must name one; then no operation
    case h_1 =>
      obtain ⟨hc, rfl⟩ := ifClear_ok.mp h
      exact ⟨hc, BitVec.eq_of_toNat_eq hop, rfl, rfl⟩
    case h_2 | h_3 | h_6 | h_8 | h_13 | h_14 | h_16 =>
      obtain ⟨hc, rfl⟩ := ifClear_ok.mp h
      obtain ⟨hFH, h3, h16⟩ := clearF0_iff.mp hc
      exact ⟨hFH, BitVec.eq_of_toNat_eq hop, h3, h16⟩
    case h_4 | h_9 =>
      obtain ⟨hc, rfl⟩ := ifClear_ok.mp h
      obtain ⟨hFH, h16⟩ := clearFL_iff.mp hc
      exact ⟨hFH, BitVec.eq_of_toNat_eq hop, rfl, h16⟩
    case h_5 | h_7 | h_11 =>
      obtain ⟨hc, rfl⟩ := ifClear_ok.mp h
      obtain ⟨hFH, h3⟩ := clearF16_iff.mp hc
      exact ⟨hFH, BitVec.eq_of_toNat_eq hop, h3, rfl⟩
    case h_12 =>
      obtain ⟨hc, rfl⟩ := ifClear_ok.mp h
      obtain ⟨hFH, h3⟩ := clearF17_iff.mp hc
      exact ⟨hFH, BitVec.eq_of_toNat_eq hop, h3, rfl⟩
    case h_10 | h_17 =>
      obtain ⟨hc, rfl⟩ := ifClear_ok.mp h
      obtain ⟨hFH, h3, h16⟩ := clearF1_iff.mp hc
      exact ⟨hFH, BitVec.eq_of_toNat_eq hop, h3, h16⟩
    case h_15 =>
      split at h
      · rename_i p hp
        obtain ⟨hc, rfl⟩ := ifClear_ok.mp h
        exact ⟨hc, BitVec.eq_of_toNat_eq hop, phaseField_eq_some_iff.mp hp, rfl⟩
      · cases h
    case h_18 => cases h
  · rintro ⟨hFH, hop, h3, h16⟩
    unfold decode
    rw [hop]
    cases i with
    | hallEdge code ticks =>
      obtain rfl : f3Field w = code := h3
      obtain rfl : f16Field w = ticks := h16
      exact ifClear_ok.mpr ⟨hFH, rfl⟩
    | hallOvf | rotorStep | signalChange | getMaxAmplitude | servoOvf | getPeriod | syncModes =>
      exact ifClear_ok.mpr ⟨clearF0_iff.mpr ⟨hFH, h3, h16⟩, rfl⟩
    | computeAngle live | commStep live =>
      obtain rfl : f3Field w = live := h3
      exact ifClear_ok.mpr ⟨clearFL_iff.mpr ⟨hFH, h16⟩, rfl⟩
    | computeVelocity x | writeAmplitude x | servoWidth x =>
      obtain rfl : f16Field w = x := h16
      exact ifClear_ok.mpr ⟨clearF16_iff.mpr ⟨hFH, h3⟩, rfl⟩
    | servoPeriod x b =>
      obtain rfl : f16Field w = x := h16
      have hb : bit16 w = b := by rw [bit16_eq, h3]; exact flagField_getLsbD_zero b
      subst hb
      exact ifClear_ok.mpr ⟨clearF17_iff.mpr ⟨hFH, h3⟩, rfl⟩
    | setEnable b | faultPoll b =>
      have hb : bit0 w = b := by rw [bit0_eq, h16]; exact flagField_getLsbD_zero b
      subst hb
      exact ifClear_ok.mpr ⟨clearF1_iff.mpr ⟨hFH, h3, h16⟩, rfl⟩
    | writeChannel p x b =>
      obtain rfl : f16Field w = x := h16
      have hb : bit18 w = b := by rw [bit18_eq, h3, Instr.f3]; cases p <;> cases b <;> decide
      subst hb
      have hp := phaseField_eq_some_iff.mpr h3
      show (match phaseField w with | some p => _ | none => _) = _
      rw [hp]
      exact ifClear_ok.mpr ⟨hFH, rfl⟩

/-- A word with its reserved bits `W[23:19]` clear is made of its three fields. -/
theorem wordOf_fields (h : clearFH w = true) : wordOf (opField w) (f3Field w) (f16Field w) = w := by
  have hmasks : fieldMask 24 8 ||| fieldMask 19 5 ||| fieldMask 16 3 ||| fieldMask 0 16 = BitVec.allOnes 32 := by decide
  have hw : w = w &&& (fieldMask 24 8 ||| fieldMask 19 5 ||| fieldMask 16 3 ||| fieldMask 0 16) := by
    rw [hmasks, BitVec.and_allOnes]
  rw [BitVec.and_or_distrib_left, BitVec.and_or_distrib_left, BitVec.and_or_distrib_left, and_opMask, clearFH_mask h,
    and_fieldMask w 16 3, and_fieldMask w 0 16, BitVec.ofNat_eq_ofNat, BitVec.or_zero, BitVec.shiftLeft_zero] at hw
  exact hw.symm

end

/-- Settles O2: the fields of the word are those of the instruction, and its reserved bits are clear. -/
theorem decodeOfEncodeIsTheInstruction : Obligations.DecodeOfEncodeIsTheInstruction := by
  unfold Obligations.DecodeOfEncodeIsTheInstruction
  intro i
  rw [decode_eq_ok_iff, encode_eq_wordOf]
  exact ⟨beq_iff_eq.mpr (reserved_wordOf _ _ _), opField_wordOf _ _ _, f3Field_wordOf _ _ _, f16Field_wordOf _ _ _⟩

/-- Settles O3: the fields of the word are those of its instruction, and with its reserved bits clear it has no other
bit. -/
theorem encodeOfDecodeIsTheWord : Obligations.EncodeOfDecodeIsTheWord := by
  unfold Obligations.EncodeOfDecodeIsTheWord
  intro w i h
  obtain ⟨hFH, hop, h3, h16⟩ := decode_eq_ok_iff.mp h
  rw [encode_eq_wordOf, ← hop, ← h3, ← h16, wordOf_fields hFH]

/-- An instruction whose word is known is what that word decodes to. -/
theorem decode_and_encode {i : Instr} {w : Word} (h : encode i = w) : decode w = .ok i ∧ encode i = w := by
  subst h
  exact ⟨decodeOfEncodeIsTheInstruction i, rfl⟩

/-- Settles O1: the seven words are computed by the encoder and decode by O2; the three illegal ones are read bit by
bit. -/
theorem workedEncodingsDecode : Obligations.WorkedEncodingsDecode := by
  unfold Obligations.WorkedEncodingsDecode
  refine ⟨?hallEdge, ?writeAmplitude, ?servoPeriod, ?writeChannelC, ?writeChannelB, ?commStep, ?faultPoll,
    ?phaseThree, ?reservedBit, ?unassigned⟩
  case phaseThree | reservedBit | unassigned => rfl
  all_goals exact decode_and_encode (by decide)

/-! The operation map (R83): a row's mask holds the operation number, so the row that selects a word is the one with
the word's number. -/

section
variable {w : Word} {r : OpRow}

/-- Every row compares the whole operation number, with its own, and the reserved bits `W[23:19]`, with 0. -/
theorem opTable_masks : ∀ r ∈ opTable,
    (r.mask.extractLsb' 24 8 = BitVec.allOnes 8 ∧ r.pattern.extractLsb' 24 8 = r.op) ∧
      r.mask.extractLsb' 19 5 = BitVec.allOnes 5 ∧ r.pattern.extractLsb' 19 5 = 0 := by
  decide

/-- No two rows have the same operation number. -/
theorem opTable_op_injective : ∀ r1 ∈ opTable, ∀ r2 ∈ opTable, r1.op = r2.op → r1 = r2 := by
  decide

theorem OpRow.selects_iff :
    r.selects w = true ↔ w &&& r.mask = r.pattern ∧ (r.phaseNot3 = true → w.extractLsb' 16 2 ≠ 3) := by
  simp [OpRow.selects, or_iff_not_imp_left]

/-- A field that a row's mask holds is, in a word it selects, the field of the row's pattern. -/
theorem extractLsb'_of_selects {start len : Nat} (h : r.selects w = true)
    (hmask : r.mask.extractLsb' start len = BitVec.allOnes len) :
    w.extractLsb' start len = r.pattern.extractLsb' start len := by
  obtain ⟨hmatch, -⟩ := OpRow.selects_iff.mp h
  rw [← hmatch, BitVec.extractLsb'_and, hmask, BitVec.and_allOnes]

/-- A row that selects a word has the word's operation number. -/
theorem opField_of_selects (hr : r ∈ opTable) (h : r.selects w = true) : opField w = r.op := by
  obtain ⟨⟨hmask, hop⟩, -⟩ := opTable_masks r hr
  exact (extractLsb'_of_selects h hmask).trans hop

theorem clearFH_of_selects (hr : r ∈ opTable) (h : r.selects w = true) : clearFH w = true := by
  obtain ⟨-, hmask, hzero⟩ := opTable_masks r hr
  exact beq_iff_eq.mpr ((extractLsb'_of_selects h hmask).trans hzero)

/-- Only the number 3 names no phase (R88). -/
theorem exists_phaseField (h : w.extractLsb' 16 2 ≠ 3) : ∃ p, phaseField w = some p := by
  cases hp : phaseField w with
  | some p => exact ⟨p, rfl⟩
  | none =>
    exfalso
    unfold phaseField at hp
    generalize w.extractLsb' 16 2 = f at h hp
    revert f
    decide

/-- A word that a row selects decodes, row by row: where the mask leaves a field open it is an operand. -/
theorem exists_decode_of_selects (hr : r ∈ opTable) (h : r.selects w = true) :
    ∃ i, decode w = .ok i ∧ i.op = r.op := by
  have decodesTo (i : Instr) (hi : i.op = r.op) (h3 : f3Field w = i.f3) (h16 : f16Field w = i.f16) :
      ∃ i, decode w = .ok i ∧ i.op = r.op :=
    ⟨i, decode_eq_ok_iff.mpr ⟨clearFH_of_selects hr h, (opField_of_selects hr h).trans hi.symm, h3, h16⟩, hi⟩
  have field {start len : Nat} := extractLsb'_of_selects (start := start) (len := len) h
  have flag1 (h : w.extractLsb' 1 15 = 0) : f16Field w = flagField 16 ((f16Field w).getLsbD 0) := by
    rw [← extractLsb'_one_eq_zero_iff]
    exact (extractLsb'_extractLsb' (by decide)).trans h
  have flag17 (h : w.extractLsb' 17 2 = 0) : f3Field w = flagField 3 ((f3Field w).getLsbD 0) := by
    rw [← extractLsb'_one_eq_zero_iff]
    exact (extractLsb'_extractLsb' (by decide)).trans h
  simp only [opTable, List.mem_cons, List.not_mem_nil, or_false] at hr
  obtain rfl | rfl | rfl | rfl | rfl | rfl | rfl | rfl | rfl | rfl | rfl | rfl | rfl | rfl | rfl | rfl | rfl := hr
  · exact decodesTo (.hallEdge _ _) rfl rfl rfl
  · exact decodesTo .hallOvf rfl (field (by decide)) (field (by decide))
  · exact decodesTo .rotorStep rfl (field (by decide)) (field (by decide))
  · exact decodesTo (.computeAngle _) rfl rfl (field (by decide))
  · exact decodesTo (.computeVelocity _) rfl (field (by decide)) rfl
  · exact decodesTo .signalChange rfl (field (by decide)) (field (by decide))
  · exact decodesTo (.writeAmplitude _) rfl (field (by decide)) rfl
  · exact decodesTo .getMaxAmplitude rfl (field (by decide)) (field (by decide))
  · exact decodesTo (.commStep _) rfl rfl (field (by decide))
  · exact decodesTo (.setEnable _) rfl (field (by decide)) (flag1 (field (by decide)))
  · exact decodesTo (.servoWidth _) rfl (field (by decide)) rfl
  · exact decodesTo (.servoPeriod _ _) rfl (flag17 (field (by decide))) rfl
  · exact decodesTo .servoOvf rfl (field (by decide)) (field (by decide))
  · exact decodesTo .getPeriod rfl (field (by decide)) (field (by decide))
  · obtain ⟨-, hphase⟩ := OpRow.selects_iff.mp h
    obtain ⟨p, hp⟩ := exists_phaseField (hphase rfl)
    exact decodesTo (.writeChannel p _ _) rfl (phaseField_eq_some_iff.mp hp) rfl
  · exact decodesTo .syncModes rfl (field (by decide)) (field (by decide))
  · exact decodesTo (.faultPoll _) rfl (field (by decide)) (flag1 (field (by decide)))

end

/-- Settles O4: a word that decodes is legal, and the row that selects it carries its operation number, as the
instruction does. -/
theorem decoderFollowsTheOperationMap : Obligations.DecoderFollowsTheOperationMap := by
  unfold Obligations.DecoderFollowsTheOperationMap
  intro w r hr
  refine ⟨exists_decode_of_selects hr, ?_⟩
  rintro ⟨i, hi, hop⟩
  obtain ⟨r', hr', hs⟩ := List.any_eq_true.mp (legalWord_of_decode hi)
  obtain ⟨-, hfield, -, -⟩ := decode_eq_ok_iff.mp hi
  have hrow : r' = r := by
    refine opTable_op_injective r' hr' r hr ?_
    rw [← opField_of_selects hr' hs, hfield, hop]
  rwa [← hrow]

/-- Settles O5: the operation number of the word tells the row. -/
theorem atMostOneRowSelectsAWord : Obligations.AtMostOneRowSelectsAWord := by
  unfold Obligations.AtMostOneRowSelectsAWord
  intro w r1 r2 h1 h2 hs1 hs2
  exact opTable_op_injective r1 h1 r2 h2 ((opField_of_selects h1 hs1).symm.trans (opField_of_selects h2 hs2))

section
variable (b0 b1 b2 b3 : Byte)

/-- The bytes of a transport stand side by side, the first lowest (R62). -/
theorem wordOfBytes_eq_append : wordOfBytes b0 b1 b2 b3 = b3 ++ (b2 ++ (b1 ++ b0)) := by
  unfold wordOfBytes
  apply BitVec.eq_of_getLsbD_eq; intro i hi
  simp only [BitVec.getLsbD_append]
  interval_cases i <;> simp

theorem toNat_append_eq_add {m n : Nat} (x : BitVec m) (y : BitVec n) : (x ++ y).toNat = 2 ^ n * x.toNat + y.toNat := by
  rw [BitVec.toNat_append, ← Nat.shiftLeft_add_eq_or_of_lt y.isLt, Nat.shiftLeft_eq, Nat.mul_comm]

/-- Four bytes as a number in base 256 (R62). -/
theorem wordOfBytes_toNat :
    (wordOfBytes b0 b1 b2 b3).toNat = b0.toNat + 256 * b1.toNat + 65536 * b2.toNat + 16777216 * b3.toNat := by
  simp only [wordOfBytes_eq_append, toNat_append_eq_add]
  omega

end

/-- The bytes of a word spell the word. -/
theorem wordOfBytes_bytes (w : Word) :
    wordOfBytes (w.extractLsb' 0 8) (w.extractLsb' 8 8) (w.extractLsb' 16 8) (w.extractLsb' 24 8) = w := by
  have join {start start' len len' : Nat} (h : start' = start + len) :=
    BitVec.extractLsb'_append_extractLsb'_eq_extractLsb' (x := w) (len₂ := len') h
  rw [wordOfBytes_eq_append, join (start := 0) (by decide), join (by decide), join (by decide)]
  exact BitVec.extractLsb'_eq_self

/-- Settles O6: the four bytes of a command spell its word, which decodes to it. -/
theorem byteTransportIsLittleEndian : Obligations.ByteTransportIsLittleEndian := by
  unfold Obligations.ByteTransportIsLittleEndian
  refine ⟨fun i rest => ?_, wordOfBytes_toNat⟩
  have hi : decode (encode i) = .ok i := decodeOfEncodeIsTheInstruction i
  rw [encodeBytes, bytesOfWord]
  simp only [List.cons_append, List.nil_append, decodeBytes, wordOfBytes_bytes, hi]

end Sys2Proof
end

section
/-! Speeds, averages, degrees and the shape of `MapRange` (spec/40_math.md R104 to R112). -/

namespace Sys2Proof.Machine

/-! ### Speeds (R110) -/

/-- `HALL_K` is at least one full interval and at most 32767 of the 65536 steps (R7(b), R110). -/
theorem hallK_bounds {c : Config} (hw : c.wf = true) : 65536 ≤ c.hallK ∧ c.hallK ≤ 2147418112 := by
  obtain ⟨-, hfreq, -⟩ := Config.wf_iff.mp hw
  simp only [Config.wfHallFreq, Bool.and_eq_true, decide_eq_true_eq] at hfreq
  rw [Config.hallK]
  omega

theorem speedFromTicks_pos {c : Config} (hw : c.wf = true) {t : Nat} (h1 : 1 ≤ t) (ht : t ≤ 65535) :
    1 ≤ speedFromTicks c t := by
  have := hallK_bounds hw
  exact (Nat.one_le_div_iff h1).mpr (by omega)

/-- Settles O56: the quotient of `HALL_K`, which is between 65536 and 2147418112, by a tick count. -/
theorem speedFromTicksFitsVelocity32 : Obligations.SpeedFromTicksFitsVelocity32 := by
  unfold Obligations.SpeedFromTicksFitsVelocity32
  intro c t u hw h1 htu hu
  obtain ⟨-, hmax⟩ := hallK_bounds hw
  exact ⟨speedFromTicks_pos hw h1 (by omega), (Nat.div_le_self _ _).trans hmax, Nat.div_le_div_left htu h1⟩

/-! ### Averages and truncating division (R104, R107) -/

theorem average_eq_of_le {a b : Int} (h : a ≤ b) : average a b = (a + b) / 2 := by
  have hhalf : tdiv (b - a) 2 = (b - a) / 2 := Int.tdiv_eq_ediv_of_nonneg (by omega)
  rw [average, hhalf]
  omega

theorem average_neg_self {p : Int} (h : 0 ≤ p) : average (-p) p = 0 := by
  rw [average_eq_of_le (by omega)]
  omega

theorem absOf_eq_natAbs (x : Int) : absOf x = x.natAbs := by
  unfold absOf
  split <;> omega

/-- Truncation toward zero divides the magnitudes (R107). -/
theorem absOf_tdiv (a b : Int) : absOf (tdiv a b) = absOf a / absOf b := by
  rw [absOf_eq_natAbs, absOf_eq_natAbs, absOf_eq_natAbs, tdiv, Int.natAbs_tdiv]
  exact Int.natCast_ediv _ _

/-- Settles O57: with the arguments in order the difference that is halved is not negative. -/
theorem averageAndTruncatingDivision : Obligations.AverageAndTruncatingDivision := by
  unfold Obligations.AverageAndTruncatingDivision
  exact ⟨fun _ _ => average_eq_of_le, fun _ => average_neg_self, fun a b _ => ⟨Int.neg_tdiv a b, absOf_tdiv a b⟩⟩

/-! ### Degrees (R108, R109) -/

/-- Below a full circle nothing wraps. -/
theorem degreesToAngle16_toNat {d : Nat} (h : d ≤ 359) : (degreesToAngle16 d).toNat = (d * 65536 + 180) / 360 := by
  have hwrap := wrap16_toNat (((d * 65536 + 180) / 360 : Nat) : Int)
  rw [degreesToAngle16]
  omega

/-- Settles O55: the rounding of both conversions is less than half a degree. -/
theorem degreeRoundTrip : Obligations.DegreeRoundTrip := by
  unfold Obligations.DegreeRoundTrip
  refine ⟨fun d hd => ?_, by decide, fun a => ?_⟩
  · rw [angle16ToDegrees, degreesToAngle16_toNat hd]
    omega
  · have := a.isLt
    rw [angle16ToDegrees]
    omega

/-! ### `MapRange` (R112) -/

section
variable {inLow inHigh outLow outHigh deadband x y : Int}

/-- Scaling by the whole, product first, gives the whole. -/
theorem tdiv_mul_self {n : Int} (hn : 0 < n) (r : Int) : tdiv (n * r) n = r := Int.mul_tdiv_cancel_left r hn.ne'

/-- At or above the lower end of the deadband the output is at least the centre. -/
theorem average_le_mapRange (hout : outLow ≤ outHigh) (h0 : 0 ≤ deadband)
    (hx : x ≤ inHigh) (h : average inLow inHigh - deadband ≤ x) :
    average outLow outHigh ≤ mapRange inLow inHigh x outLow outHigh deadband := by
  obtain hle | hgt := le_or_gt x (average inLow inHigh + deadband)
  · rw [mapRange_within hout h hle]
  · obtain ⟨-, hCh⟩ := average_mem hout
    rw [mapRange_above hout h0 hx hgt]
    obtain ⟨hscaled, -⟩ := tdiv_mul_bounds (k := x - average inLow inHigh - deadband)
      (n := inHigh - average inLow inHigh - deadband) (r := outHigh - average outLow outHigh)
      (by omega) (by omega) (by omega) (by omega)
    omega

/-- At or below the upper end of the deadband the output is at most the centre. -/
theorem mapRange_le_average (hout : outLow ≤ outHigh) (h0 : 0 ≤ deadband)
    (hx : inLow ≤ x) (h : x ≤ average inLow inHigh + deadband) :
    mapRange inLow inHigh x outLow outHigh deadband ≤ average outLow outHigh := by
  obtain hle | hlt := le_or_gt (average inLow inHigh - deadband) x
  · rw [mapRange_within hout hle h]
  · obtain ⟨hCl, -⟩ := average_mem hout
    rw [mapRange_below hout h0 hx hlt]
    obtain ⟨hscaled, -⟩ := tdiv_mul_bounds (k := -(x - average inLow inHigh + deadband))
      (n := average inLow inHigh - inLow - deadband) (r := average outLow outHigh - outLow)
      (by omega) (by omega) (by omega) (by omega)
    rw [tdiv_neg_mul] at hscaled
    omega

/-- `MapRange` is monotone: on either side of the deadband the distance is scaled by a factor that is not negative, and
inputs on different sides, or within it, have the output centre between them. -/
theorem mapRange_mono (hout : outLow ≤ outHigh) (h0 : 0 ≤ deadband) (hup : deadband < inHigh - average inLow inHigh)
    (hdown : deadband < average inLow inHigh - inLow) (hx : inLow ≤ x) (hxy : x ≤ y) (hy : y ≤ inHigh) :
    mapRange inLow inHigh x outLow outHigh deadband ≤ mapRange inLow inHigh y outLow outHigh deadband := by
  obtain ⟨hCl, hCh⟩ := average_mem hout
  obtain hxabove | hxle := lt_or_ge (average inLow inHigh + deadband) x
  · rw [mapRange_above hout h0 (by omega) hxabove, mapRange_above hout h0 hy (by omega)]
    have hmul := Int.mul_le_mul_of_nonneg_right (c := outHigh - average outLow outHigh)
      (show x - average inLow inHigh - deadband ≤ y - average inLow inHigh - deadband by omega) (by omega)
    exact Int.add_le_add_left (Int.tdiv_le_tdiv (by omega) hmul) _
  obtain hybelow | hyge := lt_or_ge y (average inLow inHigh - deadband)
  · rw [mapRange_below hout h0 hx (by omega), mapRange_below hout h0 (by omega) hybelow]
    have hmul := Int.mul_le_mul_of_nonneg_right (c := average outLow outHigh - outLow)
      (show x - average inLow inHigh + deadband ≤ y - average inLow inHigh + deadband by omega) (by omega)
    exact Int.add_le_add_left (Int.tdiv_le_tdiv (by omega) hmul) _
  exact (mapRange_le_average hout h0 hx hxle).trans (average_le_mapRange hout h0 hy hyge)

end

/-- Settles O59: the values at the marked inputs are those of the three ranges, and the map is monotone. -/
theorem mapRangeProperties : Obligations.MapRangeProperties := by
  unfold Obligations.MapRangeProperties
  refine ⟨fun p hp => ?centre, ?_⟩
  case centre =>
    have hin : average 1200 1800 = 1500 := by decide
    rw [mapRange_within (by omega) (by omega) (by omega), average_neg_self hp]
  intro inLow inHigh outLow outHigh deadband inC outC _ hout h0 hinC houtC hup hdown
  subst hinC houtC
  refine ⟨fun x _ _ => mapRange_bounds hout, ?upperEnd, ?aboveEnd, ?lowerEnd, ?belowEnd, ?inHigh, ?inLow,
    fun x y => mapRange_mono hout h0 hup hdown⟩
  case upperEnd => exact mapRange_within hout (by omega) (by omega)
  case lowerEnd => exact mapRange_within hout (by omega) (by omega)
  case aboveEnd =>
    have hone : average inLow inHigh + deadband + 1 - average inLow inHigh - deadband = 1 := by ring
    rw [mapRange_above hout h0 (by omega) (by omega), hone, Int.one_mul]
  case belowEnd =>
    have hone : average inLow inHigh - deadband - 1 - average inLow inHigh + deadband = -1 := by ring
    rw [mapRange_below hout h0 (by omega) (by omega), hone, tdiv_neg_mul, Int.one_mul]
    rfl
  case inHigh =>
    rw [mapRange_above hout h0 (by omega) (by omega), tdiv_mul_self (by omega)]
    omega
  case inLow =>
    have hwhole : inLow - average inLow inHigh + deadband = -(average inLow inHigh - inLow - deadband) := by ring
    rw [mapRange_below hout h0 (by omega) (by omega), hwhole, tdiv_neg_mul, tdiv_mul_self (by omega)]
    omega

end Sys2Proof.Machine
end

section
/-! The default direction table (spec/41_rotor.md R122, R127) and the event words (spec/60_exceptions.md R216). -/

namespace Sys2Proof.Machine

/-- The classification reads no parameter but `HALL_NEXT`. -/
theorem classifyDirection_congr {c c' : Config} (h : c.hallNext = c'.hallNext) (p q : HallCode) :
    classifyDirection c p q = classifyDirection c' p q := by
  unfold classifyDirection Config.hallNextAt
  rw [h]

/-- Settles O17: the sixty-four pairs of codes, with the table of CFG_REF. -/
theorem classifyDirectionOfTheDefaultTable : Obligations.ClassifyDirectionOfTheDefaultTable := by
  unfold Obligations.ClassifyDirectionOfTheDefaultTable
  intro c p q h
  rw [classifyDirection_congr (c' := Config.ref) h]
  revert p q
  decide

/-- Settles O43: the fields of an event word do not overlap. -/
theorem eventWordFields : Obligations.EventWordFields := by
  unfold Obligations.EventWordFields
  refine ⟨by decide, rfl, fun v => ?halt, by decide, by decide⟩
  case halt =>
    have hv : v.toNat < 2 ^ 24 := by omega
    have hcode : ((3 : Word) <<< 24).toNat = 3 <<< 24 := by decide
    rw [Event.word, BitVec.toNat_or, hcode, BitVec.toNat_setWidth_of_le (by decide), ← Nat.shiftLeft_add_eq_or_of_lt hv]
    rfl

end Sys2Proof.Machine
end

section
/-! What an operation writes (spec/10_state.md R49, R65, R211), as one constructor per branch of the seventeen rules:
the state before the answer. Whatever is kept by every constructor is kept by every operation. -/

namespace Sys2Proof.Machine

/-- Operation `i` writes nothing in a running state `s`: a query, a debounced edge, or a sequencer with nothing
pending. -/
def Idle (i : Instr) (s : State) : Prop :=
  match i with
  | .hallEdge code _ => code = s.hallCur
  | .rotorStep => s.rotorPending = false
  | .commStep _ => s.commPending = false
  | .computeAngle _ | .computeVelocity _ | .getMaxAmplitude | .getPeriod => True
  | _ => False

/-- What an operation writes into a state, the answer left out; a word that spells none (`none`) writes nothing. -/
inductive Update : Option Instr → State → State → Prop
  | idle {o : Option Instr} {s : State} (h : s.halted = true ∨ ∀ i, o = some i → Idle i s) : Update o s s
  | edge {s : State} {code : HallCode} {ticks : Width16} (hnew : code ≠ s.hallCur) :
      Update (some (.hallEdge code ticks)) s (acceptEdge code ticks s)
  | overflow {s : State} : Update (some .hallOvf) s (setHallOverflow true s)
  | noEdge {s : State} (hh : s.halted = false) (hp : s.rotorPending = true) (hz : s.countsElapsed = 0) :
      Update (some .rotorStep) s (setVelocity 0 .unknown (consumeRotor s))
  | glitch {s : State} (hh : s.halted = false) (hp : s.rotorPending = true) (hnz : s.countsElapsed ≠ 0)
      (hd : classifyDirection s.cfg s.hallPrev s.hallCur = .unknown) :
      Update (some .rotorStep) s (setVelocity 0 .unknown (emit (.glitch s.hallPrev s.hallCur) (consumeRotor s)))
  | classified {s : State} (hh : s.halted = false) (hp : s.rotorPending = true) (hnz : s.countsElapsed ≠ 0)
      (hd : classifyDirection s.cfg s.hallPrev s.hallCur ≠ .unknown) :
      Update (some .rotorStep) s
        (setVelocity ((classifyDirection s.cfg s.hallPrev s.hallCur).sign * speedFromTicks s.cfg s.countsElapsed.toNat)
          (classifyDirection s.cfg s.hallPrev s.hallCur) (consumeRotor s))
  | signal {s : State} : Update (some .signalChange) s (postComm s)
  | halt {s : State} {value : Width16Diff} (hgt : absOf (s16 value) > s.cfg.maxAmp) :
      Update (some (.writeAmplitude value)) s (emit (.halt value) (latchHalted s))
  | amplitude {s : State} {value : Width16Diff} (hle : absOf (s16 value) ≤ s.cfg.maxAmp) :
      Update (some (.writeAmplitude value)) s (setSemiAmplitude value s)
  | commit {s : State} {live : HallCode} {angle : Option Angle16} (hh : s.halted = false) (hp : s.commPending = true)
      (ha : computeAngle s.cfg s.hallCur live = .ok angle) :
      Update (some (.commStep live)) s (commUpdate angle (consumeComm s))
  | enable {s : State} {en : Bool} : Update (some (.setEnable en)) s (setEnabled en s)
  | width {s : State} {width : Width16} : Update (some (.servoWidth width)) s (setServoWidth width s)
  | pulse {s : State} {period : Width16} (hw : widthAccepted s.cfg s.servoWidth = true) :
      Update (some (.servoPeriod period true)) s (throttleValid s.servoWidth period (setServoPeriod period s))
  | noPulse {s : State} {period : Width16} {valid : Bool} (h : (valid && widthAccepted s.cfg s.servoWidth) = false) :
      Update (some (.servoPeriod period valid)) s (throttleInvalid (setServoPeriod period s))
  | count {s : State} (hlt : (satInc8 s.servoOvfCount).toNat < s.cfg.servoOvfLimit) :
      Update (some .servoOvf) s (setServoOvfCount (satInc8 s.servoOvfCount) s)
  | lost {s : State} (hge : s.cfg.servoOvfLimit ≤ (satInc8 s.servoOvfCount).toNat) :
      Update (some .servoOvf) s (throttleInvalid (setServoOvfCount (satInc8 s.servoOvfCount) s))
  | channel {s : State} {phase : Phase} {width : Width16} {enabled : Bool} :
      Update (some (.writeChannel phase width enabled)) s (stage phase { width := width, enabled := enabled } s)
  | sync {s : State} : Update (some .syncModes) s (Machine.commit s)
  | poll {s : State} {fault : Bool} : Update (some (.faultPoll fault)) s (postComm (setDrvFault fault s))

theorem Update.idle_of {i : Instr} {s : State} (h : Idle i s) : Update (some i) s s :=
  .idle (.inr fun _ hi => Option.some.inj hi ▸ h)

/-- The effect of an operation is an update and an answer. -/
theorem Effect.update {i : Instr} {s t : State} (hh : s.halted = false) (h : Effect i s t) :
    ∃ st v u, t = respond st v u ∧ Update (some i) s u := by
  cases i with
  | hallEdge code ticks =>
    obtain ⟨hc, rfl⟩ | ⟨hc, rfl⟩ := h
    · exact ⟨_, _, _, rfl, .idle_of hc⟩
    · exact ⟨_, _, _, rfl, .edge hc⟩
  | rotorStep =>
    obtain ⟨hp, rfl⟩ | ⟨hp, rfl⟩ := h
    · exact ⟨_, _, _, rfl, .idle_of hp⟩
    refine ⟨_, _, _, rfl, ?_⟩
    by_cases hz : s.countsElapsed = 0
    · rw [rotorUpdate_of_no_edge (s := consumeRotor s) hz]
      exact .noEdge hh hp hz
    by_cases hd : classifyDirection s.cfg s.hallPrev s.hallCur = .unknown
    · rw [rotorUpdate_of_glitch (s := consumeRotor s) hz hd]
      exact .glitch hh hp hz hd
    · rw [rotorUpdate_of_classified (s := consumeRotor s) hz hd]
      exact .classified hh hp hz hd
  | computeAngle live =>
    obtain ⟨_, _, rfl⟩ | ⟨_, rfl⟩ := h <;> exact ⟨_, _, _, rfl, .idle_of trivial⟩
  | computeVelocity now =>
    obtain ⟨_, rfl⟩ | ⟨_, rfl⟩ := h <;> exact ⟨_, _, _, rfl, .idle_of trivial⟩
  | writeAmplitude value =>
    obtain ⟨hgt, rfl⟩ | ⟨hle, rfl⟩ := h
    · exact ⟨_, _, _, rfl, .halt hgt⟩
    · exact ⟨_, _, _, rfl, .amplitude (not_lt.mp hle)⟩
  | commStep live =>
    obtain ⟨hp, rfl⟩ | ⟨hp, angle, ha, rfl⟩ := h
    · exact ⟨_, _, _, rfl, .idle_of hp⟩
    · exact ⟨_, _, _, rfl, .commit hh hp ha⟩
  | servoPeriod period valid =>
    refine ⟨_, _, _, h, ?_⟩
    obtain ⟨hq, heq⟩ | ⟨hq, heq⟩ := throttleUpdate_cases s.servoWidth period valid (setServoPeriod period s)
    · obtain ⟨rfl, hw⟩ := Bool.and_eq_true_iff.mp hq
      exact heq ▸ .pulse hw
    · exact heq ▸ .noPulse hq
  | servoOvf =>
    refine ⟨_, _, _, h, ?_⟩
    obtain ⟨hge, heq⟩ | ⟨hlt, heq⟩ := servoOverflow_cases s
    · exact heq ▸ .lost hge
    · exact heq ▸ .count hlt
  | hallOvf => exact ⟨_, _, _, h, .overflow⟩
  | signalChange => exact ⟨_, _, _, h, .signal⟩
  | getMaxAmplitude => exact ⟨_, _, _, h, .idle_of trivial⟩
  | setEnable en => exact ⟨_, _, _, h, .enable⟩
  | servoWidth width => exact ⟨_, _, _, h, .width⟩
  | getPeriod => exact ⟨_, _, _, h, .idle_of trivial⟩
  | writeChannel phase width enabled => exact ⟨_, _, _, h, .channel⟩
  | syncModes => exact ⟨_, _, _, h, .sync⟩
  | faultPoll fault => exact ⟨_, _, _, h, .poll⟩

/-- An operation that answers a next state made an update of it, and added its answer. -/
theorem exec_update {i : Instr} {s t : State} (h : exec i s = .next t) :
    s.cfg.wf = true ∧ ∃ st v u, t = respond st v u ∧ Update (some i) s u := by
  obtain ⟨hw, ⟨hh, ht⟩ | ⟨hh, he⟩⟩ := exec_next h
  · exact ⟨hw, _, _, _, ht, .idle (.inl hh)⟩
  · exact ⟨hw, he.update hh⟩

theorem nextInstr_of_decode_error {s : State} {w : Word} {rest : List PortInput} {e : DecodeError}
    (hi : s.inputs = .command w :: rest) (hd : decode w = .error e) : s.nextInstr = none := by
  simp [State.nextInstr, instrOf, hi, hd]

/-- A step that answers a next state did nothing, or took a word, made the update of what it
spells and added an answer, or was a reset. -/
theorem step_update {s t : State} (h : step s = .next t) :
    s.cfg.wf = true ∧
      ((s.inputs = [] ∧ t = s) ∨
        (∃ w rest st v u, s.inputs = .command w :: rest ∧ t = respond st v u ∧
          Update s.nextInstr (acceptWord w rest s) u) ∨
        ∃ p rest, s.inputs = .reset p :: rest ∧ t = resetBlock (takeInput rest s)) := by
  obtain ⟨hw, h | ⟨w, rest, st, hi, ht, hanswer⟩ | ⟨w, rest, i, hi, hd, hh, he⟩ | h⟩ := step_effect h
  · exact ⟨hw, .inl h⟩
  · refine ⟨hw, .inr (.inl ⟨w, rest, st, 0, _, hi, ht, .idle (hanswer.imp id ?_)⟩)⟩
    rintro ⟨e, he⟩ i hnext
    rw [nextInstr_of_decode_error hi he] at hnext
    cases hnext
  · obtain ⟨st, v, u, ht, hu⟩ := he.update (s := acceptWord w rest s) hh
    exact ⟨hw, .inr (.inl ⟨w, rest, st, v, u, hi, ht, nextInstr_of_decode hi hd ▸ hu⟩)⟩
  · exact ⟨hw, .inr (.inr h)⟩

end Sys2Proof.Machine
end

section
/-! What follows of every operation from its updates and its answer (spec/10_state.md R42, R49; spec/20_memory.md R65,
R68; spec/30_encoding.md R87; spec/60_exceptions.md R214, R216; spec/70_reset_and_hazards.md R234, R235). -/

namespace Sys2Proof.Machine

/-! ### Writers of the state and of the log -/

/-- Settles O37, update by update: each leaves all but its own elements as they were. -/
theorem everyElementHasItsWritersOnly : Obligations.EveryElementHasItsWritersOnly := by
  unfold Obligations.EveryElementHasItsWritersOnly
  intro i s t h
  obtain ⟨-, st, v, u, rfl, hu⟩ := exec_update h
  cases hu with
  | commit => simp [commUpdate_eq]
  | _ => simp

/-- Settles O38, update by update: the flags written with a constant name their operation, and the guard of the branch
is the condition. -/
theorem flagsHaveTheirSettersAndClearers : Obligations.FlagsHaveTheirSettersAndClearers := by
  unfold Obligations.FlagsHaveTheirSettersAndClearers
  intro i s t h
  obtain ⟨-, st, v, u, rfl, hu⟩ := exec_update h
  cases hu with
  | commit => simp +contextual [commUpdate_eq]
  | edge hnew => simp [hnew]
  | pulse haccepted => simp [haccepted]
  | @noPulse _ _ valid hnot => cases valid <;> simp_all
  | halt hgt => simp +contextual [hgt]
  | lost hge =>
    have hlimit : s.cfg.servoOvfLimit ≤ s.servoOvfCount.toNat + 1 := by
      rw [satInc8_toNat] at hge
      omega
    simp [hlimit]
  | _ => simp +contextual

/-- Settles O42: the three updates that emit are the glitch, the halt and the commit without an angle. -/
theorem eventsComeFromTheirOperations : Obligations.EventsComeFromTheirOperations := by
  unfold Obligations.EventsComeFromTheirOperations
  intro i s t h
  obtain ⟨-, st, v, u, rfl, hu⟩ := exec_update h
  cases hu with
  | @commit _ _ angle => cases angle <;> simp [commUpdate_eq, contextOf]
  | _ => simp [contextOf]

/-- Settles O36: of all updates only SYNC_MODES and a COMM_STEP that runs write the outputs, and both commit. -/
theorem outputsChangeOnlyAtACommit : Obligations.OutputsChangeOnlyAtACommit := by
  unfold Obligations.OutputsChangeOnlyAtACommit
  intro i s t h hne
  obtain ⟨-, st, v, u, rfl, hu⟩ := exec_update h
  cases hu with
  | @commit _ live angle hh hp ha =>
    rw [commUpdate_eq]
    exact ⟨.inr ⟨live, rfl⟩, rfl, rfl⟩
  | sync => exact ⟨.inl rfl, rfl, rfl⟩
  | _ => exact absurd rfl hne

/-! ### Every operation and every run is defined -/

/-- In a well-formed configuration the table lookup never fails (R128, U12). -/
theorem computeAngle_eq {c : Config} (hw : c.wf = true) (cached live : HallCode) :
    computeAngle c cached live =
      .ok (if validCode (angleCode cached live) = true then c.hallAngleAt (angleCode cached live) else none) := by
  cases hv : validCode (angleCode cached live) with
  | true =>
    obtain ⟨a, ha⟩ := Config.exists_hallAngleAt hw hv
    rw [computeAngle_of_valid hv ha, ha]
    rfl
  | false => exact computeAngle_of_invalid hv

/-- Every operation has an effect on a running block. -/
theorem exists_effect {s : State} (hw : s.cfg.wf = true) (i : Instr) : ∃ t, Effect i s t := by
  cases i with
  | hallEdge code ticks =>
    by_cases h : code = s.hallCur
    · exact ⟨_, .inl ⟨h, rfl⟩⟩
    · exact ⟨_, .inr ⟨h, rfl⟩⟩
  | rotorStep =>
    cases h : s.rotorPending with
    | false => exact ⟨_, .inl ⟨h, rfl⟩⟩
    | true => exact ⟨_, .inr ⟨h, rfl⟩⟩
  | computeAngle live =>
    obtain ⟨angle, ha⟩ : ∃ angle, computeAngle s.cfg s.hallCur live = .ok angle := ⟨_, computeAngle_eq hw _ _⟩
    cases angle with
    | some a => exact ⟨_, .inl ⟨a, ha, rfl⟩⟩
    | none => exact ⟨_, .inr ⟨ha, rfl⟩⟩
  | computeVelocity now =>
    by_cases h : s.countsElapsed = 0 ∨ s.direction = .unknown
    · exact ⟨_, .inl ⟨h, rfl⟩⟩
    · exact ⟨_, .inr ⟨h, rfl⟩⟩
  | writeAmplitude value =>
    by_cases h : absOf (s16 value) > s.cfg.maxAmp
    · exact ⟨_, .inl ⟨h, rfl⟩⟩
    · exact ⟨_, .inr ⟨h, rfl⟩⟩
  | commStep live =>
    cases h : s.commPending with
    | false => exact ⟨_, .inl ⟨h, rfl⟩⟩
    | true => exact ⟨_, .inr ⟨h, _, computeAngle_eq hw s.hallCur live, rfl⟩⟩
  | _ => exact ⟨_, rfl⟩

/-- Every operation is defined (R235). -/
theorem exists_exec {s : State} (hw : s.cfg.wf = true) (i : Instr) : ∃ t, exec i s = .next t := by
  cases hh : s.halted with
  | true => exact ⟨_, exec_halted hw hh i⟩
  | false =>
    obtain ⟨t, ht⟩ := exists_effect hw i
    exact ⟨t, exec_of_effect hw hh ht⟩

/-- No update writes the configuration, what is presented, or the records of commands and answers. -/
theorem Update.kept {o : Option Instr} {s u : State} (h : Update o s u) :
    u.cfg = s.cfg ∧ u.inputs = s.inputs ∧ u.commands = s.commands ∧ u.responses = s.responses := by
  cases h with
  | commit => rw [commUpdate_eq]; exact ⟨rfl, rfl, rfl, rfl⟩
  | _ => exact ⟨rfl, rfl, rfl, rfl⟩

theorem Update.cfg_eq {o : Option Instr} {s u : State} (h : Update o s u) : u.cfg = s.cfg := by
  obtain ⟨hcfg, -⟩ := h.kept
  exact hcfg

theorem exec_cfg {i : Instr} {s t : State} (h : exec i s = .next t) : t.cfg = s.cfg := by
  obtain ⟨-, st, v, u, rfl, hu⟩ := exec_update h
  exact hu.cfg_eq

/-- No step writes the configuration (R234). -/
theorem step_cfg {s t : State} (h : step s = .next t) : t.cfg = s.cfg := by
  obtain ⟨-, ⟨-, rfl⟩ | ⟨w, rest, st, v, u, -, rfl, hu⟩ | ⟨p, rest, -, rfl⟩⟩ := step_update h
  · rfl
  · exact hu.cfg_eq
  · rfl

/-- A word that decodes is run by its instruction's rule, which answers HALTED by itself in a halted block. -/
theorem runWord_of_decode {s : State} {w : Word} {i : Instr} (hw : s.cfg.wf = true) (hd : decode w = .ok i) :
    runWord w s = exec i s := by
  cases hh : s.halted with
  | true => rw [runWord_of_halted hh, exec_halted hw hh]
  | false => simp [runWord, hh, hd]

/-- Settles O7: taking the word leaves the configuration, and what is left of the step is the word's instruction. -/
theorem stepRunsTheDecodedInstruction : Obligations.StepRunsTheDecodedInstruction := by
  unfold Obligations.StepRunsTheDecodedInstruction
  intro s w rest i hw hi hd
  rw [step_of_command hw hi]
  exact runWord_of_decode hw hd

/-- A word that a row of the operation map selects decodes. -/
theorem exists_decode_of_legalWord {w : Word} (h : legalWord w = true) : ∃ i, decode w = .ok i := by
  obtain ⟨r, hr, hs⟩ := List.any_eq_true.mp h
  obtain ⟨i, hi, -⟩ := exists_decode_of_selects hr hs
  exact ⟨i, hi⟩

/-- Every step is defined (R235). -/
theorem exists_step {s : State} (hw : s.cfg.wf = true) : ∃ t, step s = .next t := by
  cases hi : s.inputs with
  | nil => exact ⟨s, by simp [step, hw, hi]⟩
  | cons x rest =>
    cases x with
    | reset p => exact ⟨_, step_of_reset hw hi⟩
    | command w =>
      rw [step_of_command hw hi]
      cases hh : s.halted with
      | true => exact ⟨_, runWord_of_halted (s := acceptWord w rest s) hh⟩
      | false =>
        cases hl : legalWord w with
        | false => exact ⟨_, runWord_of_illegal (s := acceptWord w rest s) hw hh hl⟩
        | true =>
          obtain ⟨i, hd⟩ := exists_decode_of_legalWord hl
          rw [runWord_of_decode (s := acceptWord w rest s) hw hd]
          exact exists_exec (s := acceptWord w rest s) hw i

/-- Settles O40: one operation and one step are defined and keep the configuration, and a run is a sequence of steps. -/
theorem everyRunHasADefinedOutcome : Obligations.EveryRunHasADefinedOutcome := by
  unfold Obligations.EveryRunHasADefinedOutcome
  constructor
  · intro i s hw
    obtain ⟨t, ht⟩ := exists_exec hw i
    exact ⟨t, ht, exec_cfg ht⟩
  · intro k
    induction k with
    | zero => exact fun s _ => ⟨s, rfl, rfl⟩
    | succ k ih =>
      intro s hw
      obtain ⟨u, hu⟩ := exists_step hw
      have hcfg := step_cfg hu
      obtain ⟨t, ht, htcfg⟩ := ih u (hcfg ▸ hw)
      exact ⟨t, by rw [runSteps_add_one, hu, andThen_next, ht], htcfg.trans hcfg⟩

/-! ### Answers -/

@[simp] theorem rotorUpdate_responses (s : State) : (rotorUpdate s).responses = s.responses := by
  obtain ⟨v, d, h⟩ | ⟨v, d, e, h⟩ := rotorUpdate_cases s <;> rw [h] <;> rfl

@[simp] theorem commUpdate_responses (angle : Option Angle16) (s : State) :
    (commUpdate angle s).responses = s.responses := by
  rw [commUpdate_eq]

@[simp] theorem throttleUpdate_responses (width period : Width16) (valid : Bool) (s : State) :
    (throttleUpdate width period valid s).responses = s.responses := by
  obtain ⟨_, h⟩ | ⟨_, h⟩ := throttleUpdate_cases width period valid s <;> rw [h] <;> rfl

@[simp] theorem servoOverflow_responses (s : State) : (servoOverflow s).responses = s.responses := by
  obtain ⟨_, h⟩ | ⟨_, h⟩ := servoOverflow_cases s <;> rw [h] <;> rfl

/-- From `s` to `t` one response was added, with value 0 unless it is OK; it is not ILLEGAL, and it is HALTED exactly if
the block is halted in `t`. -/
def AnswersOnce (s t : State) : Prop :=
  ∃ r : Response, t.responses = s.responses ++ [r] ∧ (r.status ≠ .ok → r.value = 0) ∧ r.status ≠ .illegal ∧
    (r.status = .halted ↔ t.halted = true)

theorem answersOnce_of_ok {s u : State} {v : Word} (hr : u.responses = s.responses) (hh : u.halted = false) :
    AnswersOnce s (respond .ok v u) :=
  ⟨⟨.ok, v⟩, by simp [hr], by simp [hh]⟩

theorem answersOnce_of_fail {s : State} (hh : s.halted = false) : AnswersOnce s (respond .fail 0 s) :=
  ⟨⟨.fail, 0⟩, rfl, by simp [hh]⟩

theorem answersOnce_of_halted {s u : State} (hr : u.responses = s.responses) (hh : u.halted = true) :
    AnswersOnce s (respond .halted 0 u) :=
  ⟨⟨.halted, 0⟩, by simp [hr], by simp [hh]⟩

/-- On a running block an operation answers OK, or FAIL with value 0, or halts the block and answers HALTED. -/
theorem Effect.answersOnce {i : Instr} {s t : State} (hh : s.halted = false) (h : Effect i s t) : AnswersOnce s t := by
  cases i with
  | writeAmplitude v =>
    obtain ⟨-, rfl⟩ | ⟨-, rfl⟩ := h
    · exact answersOnce_of_halted rfl rfl
    · exact answersOnce_of_ok rfl hh
  | hallEdge code ticks => obtain ⟨-, rfl⟩ | ⟨-, rfl⟩ := h <;> exact answersOnce_of_ok rfl hh
  | computeVelocity now =>
    obtain ⟨-, rfl⟩ | ⟨-, rfl⟩ := h
    · exact answersOnce_of_fail hh
    · exact answersOnce_of_ok rfl hh
  | rotorStep =>
    obtain ⟨-, rfl⟩ | ⟨-, rfl⟩ := h
    · exact answersOnce_of_fail hh
    · exact answersOnce_of_ok (by simp) (by simp [hh])
  | computeAngle live =>
    obtain ⟨a, -, rfl⟩ | ⟨-, rfl⟩ := h
    · exact answersOnce_of_ok rfl hh
    · exact answersOnce_of_fail hh
  | commStep live =>
    obtain ⟨-, rfl⟩ | ⟨-, angle, -, rfl⟩ := h
    · exact answersOnce_of_fail hh
    · exact answersOnce_of_ok (by simp) (by simp [hh])
  | _ =>
    obtain rfl := h
    exact answersOnce_of_ok (by simp) (by simp [hh])

theorem exec_answersOnce {i : Instr} {s t : State} (h : exec i s = .next t) : AnswersOnce s t := by
  obtain ⟨-, ⟨hh, rfl⟩ | ⟨hh, he⟩⟩ := exec_next h
  · exact answersOnce_of_halted rfl hh
  · exact he.answersOnce hh

/-- Settles O41: a legal word is answered by its operation, which is never ILLEGAL, an illegal one by the step; a halted
block answers HALTED to either. -/
theorem oneResponsePerCommand : Obligations.OneResponsePerCommand := by
  unfold Obligations.OneResponsePerCommand
  refine ⟨fun i s t h => exec_answersOnce h, fun s t w rest hi h => ?_⟩
  obtain ⟨hw, -⟩ := step_next h
  rw [step_of_command hw hi] at h
  cases hh : s.halted with
  | true =>
    rw [runWord_of_halted (s := acceptWord w rest s) hh] at h
    cases h
    exact ⟨rfl, ⟨.halted, 0⟩, rfl, by simp⟩
  | false =>
    cases hl : legalWord w with
    | false =>
      rw [runWord_of_illegal (s := acceptWord w rest s) hw hh hl] at h
      cases h
      exact ⟨rfl, ⟨.illegal, 0⟩, rfl, by simp⟩
    | true =>
      obtain ⟨i, hd⟩ := exists_decode_of_legalWord hl
      rw [runWord_of_decode (s := acceptWord w rest s) hw hd] at h
      obtain ⟨r, hr, -, hlegal, -⟩ := exec_answersOnce h
      obtain ⟨-, st, v, u, rfl, hu⟩ := exec_update h
      obtain ⟨-, -, hcommands, -⟩ := hu.kept
      exact ⟨hcommands, r, hr, by simp [hlegal]⟩

/-- A query's effect is an answer that repeats. -/
theorem exists_effect_of_query {i : Instr} {s : State} (hw : s.cfg.wf = true)
    (hi : (∃ l, i = .computeAngle l) ∨ (∃ n, i = .computeVelocity n) ∨ i = .getMaxAmplitude ∨ i = .getPeriod) :
    ∃ st v, Effect i s (answered st v s) ∧ Effect i (answered st v s) (answered st v (answered st v s)) := by
  obtain ⟨l, rfl⟩ | ⟨n, rfl⟩ | rfl | rfl := hi
  · obtain ⟨angle, ha⟩ : ∃ angle, computeAngle s.cfg s.hallCur l = .ok angle := ⟨_, computeAngle_eq hw _ _⟩
    cases angle with
    | some a => exact ⟨.ok, valueU16 a, .inl ⟨a, ha, rfl⟩, .inl ⟨a, ha, rfl⟩⟩
    | none => exact ⟨.fail, 0, .inr ⟨ha, rfl⟩, .inr ⟨ha, rfl⟩⟩
  · by_cases h : s.countsElapsed = 0 ∨ s.direction = .unknown
    · exact ⟨.fail, 0, .inl ⟨h, rfl⟩, .inl ⟨h, rfl⟩⟩
    · exact ⟨.ok, queriedVelocity n s, .inr ⟨h, rfl⟩, .inr ⟨h, rfl⟩⟩
  · exact ⟨.ok, _, rfl, rfl⟩
  · exact ⟨.ok, _, rfl, rfl⟩

/-- Settles O39: no query reads an answer, so its effect repeats. -/
theorem queriesArePureAndRepeat : Obligations.QueriesArePureAndRepeat := by
  unfold Obligations.QueriesArePureAndRepeat
  intro i s hw hi
  cases hh : s.halted with
  | true => exact ⟨.halted, 0, exec_halted hw hh i, exec_halted (s := answered .halted 0 s) hw hh i⟩
  | false =>
    obtain ⟨st, v, he, hagain⟩ := exists_effect_of_query hw hi
    exact ⟨st, v, exec_of_effect hw hh he, exec_of_effect (s := answered st v s) hw hh hagain⟩

end Sys2Proof.Machine
end

section
/-! The outputs (spec/42_commutator.md R146 to R149; spec/44_inverter.md R186, R187): the patterns that a COMM_STEP
commits, with the roles of a well-formed table. -/

namespace Sys2Proof

theorem Phase.exists_iff {P : Phase → Prop} : (∃ p, P p) ↔ P .A ∨ P .B ∨ P .C := by
  constructor
  · rintro ⟨p, hp⟩
    cases p
    · exact .inl hp
    · exact .inr (.inl hp)
    · exact .inr (.inr hp)
  · rintro (h | h | h)
    · exact ⟨_, h⟩
    · exact ⟨_, h⟩
    · exact ⟨_, h⟩

theorem Phase.forall_iff {P : Phase → Prop} : (∀ p, P p) ↔ P .A ∧ P .B ∧ P .C :=
  ⟨fun h => ⟨h .A, h .B, h .C⟩, fun ⟨ha, hb, hc⟩ p => by cases p <;> assumption⟩

theorem Role.forall_iff {P : Role → Prop} : (∀ r, P r) ↔ P .pos ∧ P .neg ∧ P .float :=
  ⟨fun h => ⟨h .pos, h .neg, h .float⟩, fun ⟨hp, hn, hf⟩ r => by cases r <;> assumption⟩

/-- A row of `COMM_TABLE` is well-formed exactly when each role has one phase (R7(j)). -/
theorem rowWf_iff {row : PerPhase Role} :
    rowWf row = true ↔ ∀ r : Role, ∃ p : Phase, row.get p = r ∧ ∀ q : Phase, row.get q = r → q = p := by
  obtain ⟨x, y, z⟩ := row
  rw [Role.forall_iff]
  simp only [Phase.exists_iff, Phase.forall_iff, PerPhase.get, rowWf]
  cases x <;> cases y <;> cases z <;> simp

theorem Config.wfCommTable_iff {c : Config} :
    c.wfCommTable = true ↔ ∀ (b : Bucket) (r : Role), ∃ p : Phase, (c.commTable.get b).get p = r ∧
      ∀ q : Phase, (c.commTable.get b).get q = r → q = p := by
  simp only [Config.wfCommTable, Bool.and_eq_true, rowWf_iff]
  constructor
  · rintro ⟨⟨hzero, hone⟩, htwo⟩ b
    cases b
    · exact hzero
    · exact hone
    · exact htwo
  · exact fun h => ⟨⟨h .zero, h .one⟩, h .two⟩

/-- In a well-formed table each role has a phase. -/
theorem Config.exists_phase_of_role {c : Config} (hw : c.wf = true) (b : Bucket) (r : Role) :
    ∃ p : Phase, (c.commTable.get b).get p = r := by
  obtain ⟨-, -, -, -, -, -, -, -, -, -, htable⟩ := Config.wf_iff.mp hw
  obtain ⟨p, hp, -⟩ := Config.wfCommTable_iff.mp htable b r
  exact ⟨p, hp⟩

end Sys2Proof

namespace Sys2Proof.Machine

theorem allDisabled_iff {t : PerPhase Channel} : allDisabled t = true ↔ ∀ p : Phase, (t.get p).enabled = false := by
  rw [Phase.forall_iff]
  simp [allDisabled, PerPhase.get, and_assoc]

theorem anyEnabled_of_phase {t : PerPhase Channel} {p : Phase} (h : (t.get p).enabled = true) :
    anyEnabled t = true := by
  rw [anyEnabled, Bool.not_eq_true', ← Bool.not_eq_true, allDisabled_iff]
  intro hall
  simp [hall p] at h

section
variable {c : Config} {a : Int} {angle : Angle16}

/-- The driven pattern enables its positive phase. -/
theorem anyEnabled_drivenPattern (hw : c.wf = true) : anyEnabled (drivenPattern c a angle) = true := by
  obtain ⟨p, hp⟩ := Config.exists_phase_of_role hw (bucket angle).1 .pos
  refine anyEnabled_of_phase (p := p) ?_
  rw [drivenPattern_get, hp]
  rfl

section
variable {p : Phase}

/-- The phase that floats (R149(c)). -/
theorem drivenPattern_get_of_float (h : (c.commTable.get (bucket angle).1).get p = .float) :
    (drivenPattern c a angle).get p = { width := narrow16 c.maxAmp, enabled := false } := by
  rw [drivenPattern_get, h]
  rfl

/-- The phase with the wider pulse: the positive one, or the negative one in the upper half-circle (R149(c)). -/
theorem drivenPattern_get_of_plus
    (h : (c.commTable.get (bucket angle).1).get p = if (bucket angle).2 then .neg else .pos) :
    (drivenPattern c a angle).get p = { width := narrow16 (c.maxAmp + a), enabled := true } := by
  rw [drivenPattern_get, h]
  cases (bucket angle).2 <;> rfl

/-- The phase with the narrower pulse: the negative one, or the positive one in the upper half-circle (R149(c)). -/
theorem drivenPattern_get_of_minus
    (h : (c.commTable.get (bucket angle).1).get p = if (bucket angle).2 then .pos else .neg) :
    (drivenPattern c a angle).get p = { width := narrow16 (c.maxAmp - a), enabled := true } := by
  rw [drivenPattern_get, h]
  cases (bucket angle).2 <;> rfl

end

/-- With an amplitude within `MAXAMP` the widths of the driven pattern are exact (R149(c)). -/
theorem driven_drivenPattern (hw : c.wf = true) (ha : absOf a ≤ c.maxAmp) :
    Driven c.maxAmp a (drivenPattern c a angle) := by
  obtain ⟨f, hf⟩ := Config.exists_phase_of_role hw (bucket angle).1 .float
  obtain ⟨p, hp⟩ := Config.exists_phase_of_role hw (bucket angle).1 (if (bucket angle).2 then .neg else .pos)
  obtain ⟨n, hn⟩ := Config.exists_phase_of_role hw (bucket angle).1 (if (bucket angle).2 then .pos else .neg)
  have hmax := Config.maxAmp_le hw
  obtain ⟨hlo, hhi⟩ := absOf_le.mp ha
  refine ⟨f, p, n, ?_, ?_, ?_, ?_⟩
  · rintro rfl
    rw [hf] at hp
    split at hp <;> cases hp
  · rintro rfl
    rw [hf] at hn
    split at hn <;> cases hn
  · rintro rfl
    rw [hp] at hn
    split at hn <;> cases hn
  · rw [drivenPattern_get_of_float hf, drivenPattern_get_of_plus hp, drivenPattern_get_of_minus hn]
    exact ⟨narrow16_toNat (by omega) (by omega), rfl, narrow16_toNat (by omega) (by omega), rfl,
      narrow16_toNat (by omega) (by omega), rfl⟩

end

/-- The four patterns of a COMM_STEP: coast where there is no angle or the gate is closed, and else brake at amplitude 0
and drive at any other (R149(a)). -/
theorem commPattern_cases (s : State) (angle : Option Angle16) :
    ((angle = none ∨ s.enabled = false ∨ s.drvFault = true) ∧ commPattern s angle = coastPattern) ∨
    ∃ a, angle = some a ∧ s.enabled = true ∧ s.drvFault = false ∧
      ((s.semiAmplitude = 0 ∧ commPattern s angle = brakePattern) ∨
        (s.semiAmplitude ≠ 0 ∧ commPattern s angle = drivenPattern s.cfg (s16 s.semiAmplitude) a)) := by
  cases angle with
  | none => exact .inl ⟨.inl rfl, rfl⟩
  | some a =>
    by_cases hgate : s.enabled = false ∨ s.drvFault = true
    · exact .inl ⟨.inr hgate, commPattern_of_gate_closed hgate⟩
    · obtain ⟨he, hf⟩ : s.enabled = true ∧ s.drvFault = false := by simpa using hgate
      refine .inr ⟨a, rfl, he, hf, ?_⟩
      by_cases hz : s.semiAmplitude = 0
      · exact .inl ⟨hz, commPattern_of_zero he hf hz⟩
      · exact .inr ⟨hz, commPattern_of_nonzero he hf hz⟩

/-- The code that an angle is computed from is valid if one of the two is (R128). -/
theorem validCode_angleCode (cached live : HallCode) :
    validCode (angleCode cached live) = (validCode cached || validCode live) := by
  cases hc : validCode cached <;> simp [angleCode, hc]

/-- There is an angle exactly if one of the two codes is valid (R128). -/
theorem isSome_of_computeAngle {c : Config} {cached live : HallCode} {angle : Option Angle16} (hw : c.wf = true)
    (h : computeAngle c cached live = .ok angle) : angle.isSome = (validCode cached || validCode live) := by
  rw [computeAngle_eq hw] at h
  cases h
  rw [← validCode_angleCode]
  cases hv : validCode (angleCode cached live) with
  | false => rfl
  | true =>
    obtain ⟨a, ha⟩ := Config.exists_hallAngleAt hw hv
    rw [ha]
    rfl

/-- The signal that a COMM_STEP consumes is no input of its pattern. -/
theorem commPattern_consumeComm (s : State) (angle : Option Angle16) :
    commPattern (consumeComm s) angle = commPattern s angle := by
  cases angle <;> rfl

section
variable {s : State} {angle : Option Angle16}

/-- A COMM_STEP enables some output exactly if it had an angle and its gate was open (R252). -/
theorem anyEnabled_commPattern (hw : s.cfg.wf = true) :
    anyEnabled (commPattern s angle) = (angle.isSome && (s.enabled && !s.drvFault)) := by
  obtain ⟨hclosed, heq⟩ | ⟨a, rfl, he, hf, ⟨-, heq⟩ | ⟨-, heq⟩⟩ := commPattern_cases s angle
  · have hoff : anyEnabled coastPattern = false := rfl
    rw [heq, hoff]
    obtain rfl | h | h := hclosed <;> simp [*]
  · rw [heq, he, hf]
    rfl
  · rw [heq, anyEnabled_drivenPattern hw, he, hf]
    rfl

/-- What a COMM_STEP commits is one of the commutator's patterns while the amplitude is within its bound (R149). -/
theorem commutatorPattern_commPattern (hw : s.cfg.wf = true) (ha : absOf (s16 s.semiAmplitude) ≤ s.cfg.maxAmp) :
    CommutatorPattern s.cfg (commPattern s angle) := by
  obtain ⟨-, heq⟩ | ⟨a, -, -, -, ⟨-, heq⟩ | ⟨hnz, heq⟩⟩ := commPattern_cases s angle
  · exact .inl heq
  · exact .inr (.inl heq)
  · refine .inr (.inr ⟨_, fun h => hnz (BitVec.eq_of_toInt_eq h), ha, ?_⟩)
    rw [heq]
    exact driven_drivenPattern hw ha

end

/-- A COMM_STEP that runs commits the pattern of its angle. -/
theorem active_of_commStep {s t : State} {live : HallCode} (hh : s.halted = false) (hp : s.commPending = true)
    (h : exec (.commStep live) s = .next t) :
    s.cfg.wf = true ∧
      ∃ angle, computeAngle s.cfg s.hallCur live = .ok angle ∧ t.active = commPattern s angle := by
  obtain ⟨hw, ⟨hh', -⟩ | ⟨-, ⟨hp', -⟩ | ⟨-, angle, ha, rfl⟩⟩⟩ := exec_next h
  · simp [hh] at hh'
  · simp [hp] at hp'
  · refine ⟨hw, angle, ha, ?_⟩
    rw [commUpdate_eq]
    exact commPattern_consumeComm s angle

theorem Phase.eq_of_distinct {f p n : Phase} (hfp : f ≠ p) (hfn : f ≠ n) (hpn : p ≠ n) (q : Phase) :
    q = f ∨ q = p ∨ q = n := by
  cases f <;> cases p <;> cases n <;> cases q <;> simp at *

section
variable {half a : Int} {t : PerPhase Channel}

/-- No width of a driven pattern exceeds the full period (R149(b)). -/
theorem Driven.width_le (h : Driven half a t) (ha : absOf a ≤ half) (q : Phase) :
    ((t.get q).width.toNat : Int) ≤ 2 * half := by
  obtain ⟨f, p, n, hfp, hfn, hpn, hf, -, hp, -, hn, -⟩ := h
  obtain ⟨hlo, hhi⟩ := absOf_le.mp ha
  obtain rfl | rfl | rfl := Phase.eq_of_distinct hfp hfn hpn q <;> omega

/-- A driven pattern enables two phases (R149(d)). -/
theorem Driven.not_one_enabled (h : Driven half a t) :
    ¬ ∃ p : Phase, ∀ q : Phase, (t.get q).enabled = true ↔ q = p := by
  obtain ⟨f, p, n, -, -, hpn, -, -, -, hp, -, hn⟩ := h
  rintro ⟨x, hx⟩
  exact hpn (((hx p).mp hp).trans ((hx n).mp hn).symm)

end

/-- A pattern that is the same for all phases does not enable exactly one. -/
theorem const_not_one_enabled (ch : Channel) :
    ¬ ∃ p : Phase, ∀ q : Phase, ((PerPhase.const ch).get q).enabled = true ↔ q = p := by
  rintro ⟨x, hx⟩
  simp only [PerPhase.get_const] at hx
  have henabled : ch.enabled = true := (hx x).mpr rfl
  have hall (q : Phase) : q = x := (hx q).mp henabled
  exact absurd ((hall .A).trans (hall .B).symm) (by decide)

/-- Settles O27: the pattern is coast, brake or driven by a legal amplitude. -/
theorem committedPatternIsOneOfFour : Obligations.CommittedPatternIsOneOfFour := by
  unfold Obligations.CommittedPatternIsOneOfFour
  intro s t live hh hp hamp h
  obtain ⟨hw, angle, -, hactive⟩ := active_of_commStep hh hp h
  have hperiod : 2 * s.cfg.maxAmp ≤ s.cfg.pwmPeriod := Nat.mul_div_le _ _
  obtain ⟨-, heq⟩ | ⟨a, -, -, -, ⟨-, heq⟩ | ⟨hnz, heq⟩⟩ := commPattern_cases s angle <;> rw [hactive, heq]
  · exact ⟨.inl rfl, fun p => ⟨by simp [coastPattern], hperiod⟩, const_not_one_enabled _⟩
  · exact ⟨.inr (.inl rfl), fun p => ⟨by simp [brakePattern], hperiod⟩, const_not_one_enabled _⟩
  · have hdriven := driven_drivenPattern (angle := a) hw hamp
    refine ⟨.inr (.inr ⟨fun h => hnz (BitVec.eq_of_toInt_eq h), hdriven⟩), fun p => ⟨?_, hperiod⟩,
      hdriven.not_one_enabled⟩
    have := hdriven.width_le hamp p
    omega

/-- Settles O28: the enabled outputs of a COMM_STEP need its angle and its gate, and FAULT_POLL is no writer of the
outputs. -/
theorem outputsEnabledOnlyWhenSafe : Obligations.OutputsEnabledOnlyWhenSafe := by
  unfold Obligations.OutputsEnabledOnlyWhenSafe
  constructor
  · intro s t live hh hp h hany
    obtain ⟨hw, angle, ha, hactive⟩ := active_of_commStep hh hp h
    rw [hactive, anyEnabled_commPattern hw, isSome_of_computeAngle hw ha] at hany
    simp only [Bool.and_eq_true, Bool.or_eq_true, Bool.not_eq_true'] at hany
    obtain ⟨hvalid, he, hf⟩ := hany
    exact ⟨he, hf, hvalid⟩
  · intro s t f h
    obtain ⟨-, st, v, u, rfl, hu⟩ := exec_update h
    cases hu <;> rfl

/-- The driven pattern by the half-circle of the angle: the row of its bucket, the widths swapped in the upper one. -/
theorem drivenPattern_of_bucket {c : Config} {a : Int} {angle : Angle16} {b : Bucket} {swap : Bool}
    (h : bucket angle = (b, swap)) :
    drivenPattern c a angle = (c.commTable.get b).map
      (if swap then roleChannel (c.maxAmp - a) (c.maxAmp + a) c.maxAmp
        else roleChannel (c.maxAmp + a) (c.maxAmp - a) c.maxAmp) := by
  simp only [drivenPattern, h]
  cases swap <;> rfl

/-- Settles O26: the angle of each code lies in one third of a half-circle, whose row of the table gives the roles. -/
theorem sectorPatternsOfTheDefaultTables : Obligations.SectorPatternsOfTheDefaultTables := by
  unfold Obligations.SectorPatternsOfTheDefaultTables
  intro s t live H a x y z hh hangles htable he hf hp hnz hamp hH ha hx hy hz h
  subst hH ha hx hy hz
  obtain ⟨hw, -⟩ := exec_next h
  have committed {angle : Angle16} {b : Bucket} {swap : Bool} (hv : validCode s.hallCur = true)
      (hangle : Config.defaultHallAngle.get s.hallCur = some angle) (hb : bucket angle = (b, swap)) :
      t.active = (Config.defaultCommTable.get b).map
        (if swap then roleChannel (s.cfg.maxAmp - s16 s.semiAmplitude) (s.cfg.maxAmp + s16 s.semiAmplitude) s.cfg.maxAmp
          else roleChannel (s.cfg.maxAmp + s16 s.semiAmplitude) (s.cfg.maxAmp - s16 s.semiAmplitude) s.cfg.maxAmp) := by
    have hcode : angleCode s.hallCur live = s.hallCur := if_pos hv
    have hangleAt : s.cfg.hallAngleAt s.hallCur = some angle := by rw [Config.hallAngleAt, hangles, hangle]
    rw [exec_commStep_of_angle hw hh hp (hcode.symm ▸ hv) (hcode.symm ▸ hangleAt)
      (commPattern_of_nonzero he hf hnz)] at h
    injection h with ht
    have hactive : t.active = drivenPattern s.cfg (s16 s.semiAmplitude) angle := by rw [← ht]
    rw [hactive, drivenPattern_of_bucket hb, htable]
  refine ⟨fun hcur => ?one, fun hcur => ?five, fun hcur => ?four, fun hcur => ?six, fun hcur => ?two,
    fun hcur => ?three⟩ <;> rw [hcur] at committed
  case one => exact committed (b := .zero) (swap := false) rfl rfl (by decide)
  case five => exact committed (b := .one) (swap := false) rfl rfl (by decide)
  case four => exact committed (b := .two) (swap := false) rfl rfl (by decide)
  case six => exact committed (b := .zero) (swap := true) rfl rfl (by decide)
  case two => exact committed (b := .one) (swap := true) rfl rfl (by decide)
  case three => exact committed (b := .two) (swap := true) rfl rfl (by decide)

end Sys2Proof.Machine
end

section
/-! The step lemmas (spec/10_state.md R46; spec/44_inverter.md R187; spec/70_reset_and_hazards.md R232(e), R252): what
each update keeps of the invariants, and the invariants after reset. -/

namespace Sys2Proof.Machine

/-! ### What an update keeps -/

/-- Both amplitude registers are within `MAXAMP` (R46(a), (b)). -/
def AmplitudesBounded (s : State) : Prop :=
  absOf (s16 s.semiAmplitude) ≤ s.cfg.maxAmp ∧ absOf (s16 s.lastAmplitude) ≤ s.cfg.maxAmp

/-- The cached velocity is the signed speed of some interval, or 0 with the direction unknown (R46(c)). -/
def SpeedAgrees (s : State) : Prop :=
  (s.direction = .unknown ∧ s.velocity = 0) ∨
    (s.direction ≠ .unknown ∧
      ∃ t : Nat, 1 ≤ t ∧ t ≤ 65535 ∧ s.velocity.toInt = s.direction.sign * (speedFromTicks s.cfg t : Int))

theorem allDisabled_set {t : PerPhase Channel} {p : Phase} {ch : Channel} (ht : allDisabled t = true)
    (hch : ch.enabled = false) : allDisabled (t.set p ch) = true := by
  rw [allDisabled_iff] at ht ⊢
  intro q
  by_cases hq : q = p
  · rw [hq, PerPhase.get_set_same, hch]
  · rw [PerPhase.get_set_of_ne _ _ hq, ht q]

/-- With the gate closed a COMM_STEP coasts, with or without an angle. -/
theorem commPattern_of_closed {s : State} (h : s.drvFault = true ∨ s.enabled = false) (angle : Option Angle16) :
    commPattern s angle = coastPattern := by
  cases angle with
  | none => rfl
  | some a => exact commPattern_of_gate_closed h.symm

section
variable {o : Option Instr} {s u : State} (h : Update o s u)
include h

/-- The amplitudes written are the checked one of WRITE_AMPLITUDE, the slew-limited one of a pulse, and 0. -/
theorem Update.amplitudesBounded (hw : s.cfg.wf = true) (hs : AmplitudesBounded s) : AmplitudesBounded u := by
  obtain ⟨hsemi, hlast⟩ := hs
  have hzero : absOf (s16 0) ≤ s.cfg.maxAmp := by
    have : absOf (s16 0) = 0 := by decide
    omega
  cases h with
  | amplitude hle => exact ⟨hle, hlast⟩
  | @pulse _ period _ =>
    have hamp :
        absOf (s16 (narrow16 (throttleAmplitude s.cfg s.lastAmplitude s.servoWidth period))) ≤ s.cfg.maxAmp := by
      rw [s16, narrow16_throttleAmplitude_toInt hlast s.servoWidth period hw]
      exact absOf_throttleAmplitude_le hlast s.servoWidth period
    exact ⟨hamp, hamp⟩
  | noPulse | lost => exact ⟨hsemi, hzero⟩
  | commit => rw [commUpdate_eq]; exact ⟨hsemi, hlast⟩
  | _ => exact ⟨hsemi, hlast⟩

/-- The pair is written by a ROTOR_STEP, with the signed speed of a tick count that is not 0, or with zeros. -/
theorem Update.speedAgrees (hw : s.cfg.wf = true) (hs : SpeedAgrees s) : SpeedAgrees u := by
  cases h with
  | noEdge | glitch => exact .inl ⟨rfl, rfl⟩
  | classified hh hp hnz hd =>
    refine .inr ⟨hd, s.countsElapsed.toNat, ?_, ?_, narrow32_signedSpeed_toInt hw _ _⟩
    · exact Nat.one_le_iff_ne_zero.mpr fun hz => hnz (BitVec.eq_of_toNat_eq hz)
    · exact Nat.le_of_lt_succ s.countsElapsed.isLt
  | commit => rw [commUpdate_eq]; exact hs
  | _ => exact hs

/-- An accepted edge stores a code that differs from the one before it (R46(d)). -/
theorem Update.hallPair_distinct (hs : s.hallCur ≠ s.hallPrev ∨ (s.hallCur = 0 ∧ s.hallPrev = 0)) :
    u.hallCur ≠ u.hallPrev ∨ (u.hallCur = 0 ∧ u.hallPrev = 0) := by
  cases h with
  | edge hnew => exact .inl hnew
  | commit => rw [commUpdate_eq]; exact hs
  | _ => exact hs

/-- What becomes active is recorded as the last committed triple (R46(e)). -/
theorem Update.outputs_committed (hs : s.active = s.commits.getLastD resetTriple) :
    u.active = u.commits.getLastD resetTriple := by
  cases h with
  | sync => exact List.getLastD_concat.symm
  | commit => rw [commUpdate_eq]; exact List.getLastD_concat.symm
  | _ => exact hs

/-- The gate stays closed unless the instruction stages an enabled channel or gives the opener still missing
(R232(e)). -/
theorem Update.closed (hs : s.Closed)
    (hok : ∀ i, o = some i → stagesEnabled i = false ∧ (i = .faultPoll false → s.enabled = false) ∧
      (enables i s = true → s.drvFault = true)) :
    u.Closed := by
  obtain ⟨hstaged, hactive, hgate⟩ := hs
  cases h with
  | channel =>
    obtain ⟨hoff, -, -⟩ := hok _ rfl
    exact ⟨allDisabled_set hstaged hoff, hactive, hgate⟩
  | sync => exact ⟨hstaged, hstaged, hgate⟩
  | @commit _ _ angle =>
    have hcoast : allDisabled (commPattern (consumeComm s) angle) = true := by
      rw [commPattern_of_closed (s := consumeComm s) hgate]
      rfl
    rw [commUpdate_eq]
    exact ⟨hcoast, hcoast, hgate⟩
  | @enable _ en =>
    obtain ⟨-, -, henables⟩ := hok _ rfl
    refine ⟨hstaged, hactive, ?_⟩
    cases en with
    | false => exact .inr rfl
    | true => exact .inl (henables rfl)
  | pulse haccepted =>
    obtain ⟨-, -, henables⟩ := hok _ rfl
    exact ⟨hstaged, hactive, .inl (henables haccepted)⟩
  | @poll _ fault =>
    obtain ⟨-, hpoll, -⟩ := hok _ rfl
    refine ⟨hstaged, hactive, ?_⟩
    cases fault with
    | false => exact .inr (hpoll rfl)
    | true => exact .inl rfl
  | noPulse | lost => exact ⟨hstaged, hactive, .inr rfl⟩
  | _ => exact ⟨hstaged, hactive, hgate⟩

/-- Only `FAULT_POLL 0` clears a driver fault. -/
theorem Update.drvFault_stays (hs : s.drvFault = true) (hok : o ≠ some (.faultPoll false)) : u.drvFault = true := by
  cases h with
  | @poll _ fault =>
    cases fault with
    | false => exact absurd rfl hok
    | true => rfl
  | commit => rw [commUpdate_eq]; exact hs
  | _ => exact hs

/-- Only an enable enables. -/
theorem Update.disabled_stays (hs : s.enabled = false) (hok : ∀ i, o = some i → enables i s = false) :
    u.enabled = false := by
  cases h with
  | enable => exact hok _ rfl
  | pulse haccepted => exact absurd (hok _ rfl) (by simp [enables, haccepted])
  | noPulse | lost => rfl
  | commit => rw [commUpdate_eq]; exact hs
  | _ => exact hs

section
variable (hstages : ∀ i, o = some i → stagesChannel i = false)
include hstages

/-- With no WRITE_CHANNEL nothing stays staged without being committed, and the outputs are the pattern of the COMM_STEP
that ran, if it was one, and else as they were. -/
theorem Update.outputs_of_commutator (hs : s.staged = s.active) :
    u.staged = u.active ∧
      ((∃ live angle, o = some (.commStep live) ∧ s.halted = false ∧ s.commPending = true ∧
          computeAngle s.cfg s.hallCur live = .ok angle ∧ u.active = commPattern s angle) ∨
        ((∀ live, o = some (.commStep live) → s.halted = true ∨ s.commPending = false) ∧ u.active = s.active)) := by
  cases h with
  | channel => exact absurd (hstages _ rfl) (by simp [stagesChannel])
  | sync => exact ⟨rfl, .inr ⟨nofun, hs⟩⟩
  | @commit _ live angle hh hp ha =>
    rw [commUpdate_eq]
    exact ⟨rfl, .inl ⟨live, angle, rfl, hh, hp, ha, commPattern_consumeComm s angle⟩⟩
  | idle hidle => exact ⟨hs, .inr ⟨fun live ho => hidle.imp id fun hidle => hidle _ ho, rfl⟩⟩
  | _ => exact ⟨hs, .inr ⟨nofun, rfl⟩⟩

/-- The outputs stay the commutator's own (R187). -/
theorem Update.commutatorOnly (hs : s.CommutatorOnly) : u.CommutatorOnly := by
  obtain ⟨hw, hsemi, hlast, hcommitted, hpattern⟩ := hs
  obtain ⟨hsemi', hlast'⟩ := h.amplitudesBounded hw ⟨hsemi, hlast⟩
  have hcfg := h.cfg_eq
  obtain ⟨hstaged, hactive⟩ := h.outputs_of_commutator hstages hcommitted
  refine ⟨hcfg ▸ hw, hsemi', hlast', hstaged, ?_⟩
  obtain ⟨live, angle, -, -, -, -, hactive⟩ | ⟨-, hactive⟩ := hactive
  · rw [hactive, hcfg]
    exact commutatorPattern_commPattern hw hsemi
  · rw [hactive, hcfg]
    exact hpattern

end

/-- The cached pair is written by a ROTOR_STEP that runs, and by nothing else. -/
theorem Update.speed_eq (hidle : o = some .rotorStep → s.halted = true ∨ s.rotorPending = false) :
    u.velocity = s.velocity ∧ u.direction = s.direction := by
  cases h with
  | noEdge hh hp | glitch hh hp | classified hh hp =>
    obtain h | h := hidle rfl
    · simp [hh] at h
    · simp [hp] at h
  | commit => rw [commUpdate_eq]; exact ⟨rfl, rfl⟩
  | _ => exact ⟨rfl, rfl⟩

end

/-! ### After reset -/

/-- The state after reset, for any configuration and with anything presented. -/
def State.resetWith (c : Config) (ins : List PortInput) : State := { State.reset with cfg := c, inputs := ins }

section
variable {c : Config} {ins : List PortInput}

theorem closed_resetWith : (State.resetWith c ins).Closed := ⟨rfl, rfl, .inl rfl⟩

theorem amplitudesBounded_resetWith : AmplitudesBounded (State.resetWith c ins) := by
  have hzero : absOf (s16 0) = 0 := by decide
  have h : absOf (s16 0) ≤ c.maxAmp := by omega
  exact ⟨h, h⟩

theorem inv_resetWith (hw : c.wf = true) : (State.resetWith c ins).Inv := by
  obtain ⟨hsemi, hlast⟩ := amplitudesBounded_resetWith (c := c) (ins := ins)
  exact ⟨hw, hsemi, hlast, .inl ⟨rfl, rfl⟩, .inr ⟨rfl, rfl⟩, rfl, rfl⟩

theorem commutatorOnly_resetWith (hw : c.wf = true) : (State.resetWith c ins).CommutatorOnly := by
  obtain ⟨hsemi, hlast⟩ := amplitudesBounded_resetWith (c := c) (ins := ins)
  exact ⟨hw, hsemi, hlast, rfl, .inl rfl⟩

end

/-- Settles O45: the reset values meet every clause. -/
theorem invariantHoldsAtReset : Obligations.InvariantHoldsAtReset := by
  unfold Obligations.InvariantHoldsAtReset
  intro c ins s hw hs
  subst hs
  exact ⟨inv_resetWith hw, closed_resetWith, commutatorOnly_resetWith hw, rfl⟩

/-! ### Every step -/

/-- Settles O46: each invariant is kept by the update, the answer adds one response to the one command taken, and reset
starts anew. -/
theorem everyStepKeepsTheInvariant : Obligations.EveryStepKeepsTheInvariant := by
  unfold Obligations.EveryStepKeepsTheInvariant
  intro s t hs h
  obtain ⟨hw, ⟨-, rfl⟩ | ⟨w, rest, st, v, u, -, rfl, hu⟩ | ⟨p, rest, -, rfl⟩⟩ := step_update h
  · exact hs
  · obtain ⟨hsemi, hlast⟩ := hu.amplitudesBounded hw ⟨hs.semiBound, hs.lastBound⟩
    obtain ⟨hcfg, -, hcommands, hresponses⟩ := hu.kept
    exact {
      config := hcfg ▸ hw
      semiBound := hsemi
      lastBound := hlast
      speed := hu.speedAgrees hw hs.speed
      hallPair := hu.hallPair_distinct hs.hallPair
      outputs := hu.outputs_committed hs.outputs
      answered := by simp [hcommands, hresponses, hs.answered] }
  · exact inv_resetWith hw

/-- Settles O50, by the update that the step makes. -/
theorem everyStepKeepsTheGateClosed : Obligations.EveryStepKeepsTheGateClosed := by
  unfold Obligations.EveryStepKeepsTheGateClosed
  intro s t hs h hok
  obtain ⟨-, ⟨-, rfl⟩ | ⟨w, rest, st, v, u, -, rfl, hu⟩ | ⟨p, rest, -, rfl⟩⟩ := step_update h
  · exact hs
  · obtain ⟨hstaged, hactive, hgate⟩ := hu.closed ⟨hs.stagedOff, hs.activeOff, hs.gate⟩ hok
    exact ⟨hstaged, hactive, hgate⟩
  · exact closed_resetWith

/-- Settles O52, by the update that the step makes. -/
theorem everyStepKeepsTheCommutatorsPatterns : Obligations.EveryStepKeepsTheCommutatorsPatterns := by
  unfold Obligations.EveryStepKeepsTheCommutatorsPatterns
  intro s t hs h hok
  obtain ⟨hw, ⟨-, rfl⟩ | ⟨w, rest, st, v, u, -, rfl, hu⟩ | ⟨p, rest, -, rfl⟩⟩ := step_update h
  · exact hs
  · obtain ⟨hconfig, hsemi, hlast, hcommitted, hpattern⟩ := hs
    obtain ⟨hconfig, hsemi, hlast, hcommitted, hpattern⟩ :=
      hu.commutatorOnly hok ⟨hconfig, hsemi, hlast, hcommitted, hpattern⟩
    exact ⟨hconfig, hsemi, hlast, hcommitted, hpattern⟩
  · exact commutatorOnly_resetWith hw

end Sys2Proof.Machine
end

section
/-! What follows along a step and a run (spec/10_state.md R46; spec/70_reset_and_hazards.md R232(e), R252). -/

namespace Sys2Proof.Machine

/-! ### The gate at the last COMM_STEP (R252) -/

section
variable {s : State} {g : Bool}

theorem nextInstr_of_nil (hi : s.inputs = []) : s.nextInstr = none := by simp [State.nextInstr, hi]

theorem gateAfter_of_reset {p : Option Word} {rest : List PortInput} (hi : s.inputs = .reset p :: rest) :
    s.gateAfter g = false := by
  simp [State.gateAfter, State.resetNext, hi]

theorem gateAfter_of_commStep {live : HallCode} (hr : s.resetNext = false) (hn : s.nextInstr = some (.commStep live))
    (hh : s.halted = false) (hp : s.commPending = true) :
    s.gateAfter g = (s.enabled && !s.drvFault && (validCode s.hallCur || validCode live)) := by
  simp [State.gateAfter, hr, hn, hh, hp]

theorem gateAfter_of_other (hr : s.resetNext = false)
    (hn : ∀ live, s.nextInstr = some (.commStep live) → s.halted = true ∨ s.commPending = false) :
    s.gateAfter g = g := by
  rw [State.gateAfter, hr]
  simp only [Bool.false_eq_true, if_false]
  split
  · rename_i live hlive
    obtain h | h := hn live hlive <;> simp [h]
  · rfl

theorem resetNext_of_command {w : Word} {rest : List PortInput} (hi : s.inputs = .command w :: rest) :
    s.resetNext = false := by
  simp [State.resetNext, hi]

theorem resetNext_of_nil (hi : s.inputs = []) : s.resetNext = false := by
  simp [State.resetNext, hi]

end

/-- Settles O53: the outputs are the pattern of the COMM_STEP that ran, which is enabled as its gate was, or as they
were. -/
theorem outputsFollowTheLastCommStep : Obligations.OutputsFollowTheLastCommStep := by
  unfold Obligations.OutputsFollowTheLastCommStep
  intro s t g hs hg h hok
  obtain ⟨hw, ⟨hi, rfl⟩ | ⟨w, rest, st, v, u, hi, rfl, hu⟩ | ⟨p, rest, hi, rfl⟩⟩ := step_update h
  · rw [gateAfter_of_other (resetNext_of_nil hi) (by simp [nextInstr_of_nil hi])]
    exact ⟨hs, hg⟩
  · obtain ⟨hstaged, ⟨live, angle, hn, hh, hp, ha, hactive⟩ | ⟨hn, hactive⟩⟩ := hu.outputs_of_commutator hok hs
    · refine ⟨hstaged, ?_⟩
      have hany := anyEnabled_commPattern (s := acceptWord w rest s) (angle := angle) hw
      rw [isSome_of_computeAngle hw ha] at hany
      rw [gateAfter_of_commStep (resetNext_of_command hi) hn hh hp, Bool.and_comm]
      exact (congrArg anyEnabled hactive).trans hany
    · rw [gateAfter_of_other (resetNext_of_command hi) hn]
      exact ⟨hstaged, (congrArg anyEnabled hactive).trans hg⟩
  · rw [gateAfter_of_reset hi]
    exact ⟨rfl, rfl⟩

/-! ### Fail closed along a run (R232(e)) -/

/-- A run of one step more is a run and a step. -/
theorem runSteps_succ_next {k : Nat} {s t : State} (h : runSteps (k + 1) s = .next t) :
    ∃ u, runSteps k s = .next u ∧ step u = .next t := by
  induction k generalizing s with
  | zero =>
    obtain ⟨u, hu, ht⟩ := andThen_eq_next h
    cases ht
    exact ⟨s, rfl, hu⟩
  | succ k ih =>
    obtain ⟨x, hx, h⟩ := andThen_eq_next h
    obtain ⟨u, hu, ht⟩ := ih h
    exact ⟨u, by rw [runSteps_add_one, hx, andThen_next, hu], ht⟩

/-- What holds at the start of a run and is kept by each of its steps holds at its end. -/
theorem runSteps_keeps {P : State → Prop} {k : Nat} {s t : State} (h : runSteps k s = .next t) (hs : P s)
    (hstep : ∀ (j : Nat) (u v : State), j < k → runSteps j s = .next u → step u = .next v → P u → P v) : P t := by
  induction k generalizing t with
  | zero => cases h; exact hs
  | succ k ih =>
    obtain ⟨u, hu, ht⟩ := runSteps_succ_next h
    exact hstep k u t (by omega) hu ht (ih hu fun j x y hj => hstep j x y (by omega))

theorem step_keeps_drvFault {s t : State} (h : step s = .next t) (hs : s.drvFault = true)
    (hok : s.nextInstr ≠ some (.faultPoll false)) : t.drvFault = true := by
  obtain ⟨-, ⟨-, rfl⟩ | ⟨w, rest, st, v, u, -, rfl, hu⟩ | ⟨p, rest, -, rfl⟩⟩ := step_update h
  · exact hs
  · exact hu.drvFault_stays hs hok
  · rfl

theorem step_keeps_disabled {s t : State} (h : step s = .next t) (hs : s.enabled = false)
    (hok : ∀ i, s.nextInstr = some i → enables i s = false) : t.enabled = false := by
  obtain ⟨-, ⟨-, rfl⟩ | ⟨w, rest, st, v, u, -, rfl, hu⟩ | ⟨p, rest, -, rfl⟩⟩ := step_update h
  · exact hs
  · exact hu.disabled_stays hs hok
  · rfl

/-- Settles O51: along the run the gate stays closed, and with it the fault latched, or the commutator disabled. -/
theorem nothingDrivesBeforeFaultPollAndEnable : Obligations.NothingDrivesBeforeFaultPollAndEnable := by
  unfold Obligations.NothingDrivesBeforeFaultPollAndEnable
  intro c ins k s t hs h hstages hopener
  subst hs
  suffices hclosed : t.Closed from fun p => allDisabled_iff.mp hclosed.activeOff p
  obtain hnopoll | hnoenable := hopener
  · refine And.left (runSteps_keeps (P := fun u => u.Closed ∧ u.drvFault = true) h ⟨closed_resetWith, rfl⟩ ?_)
    rintro j u v hj hu hv ⟨hclosed, hfault⟩
    have hpoll := hnopoll j u hj hu
    refine ⟨everyStepKeepsTheGateClosed u v hclosed hv fun i hi => ⟨hstages j u i hj hu hi, ?_, fun _ => hfault⟩,
      step_keeps_drvFault hv hfault hpoll⟩
    rintro rfl
    exact absurd hi hpoll
  · refine And.left (runSteps_keeps (P := fun u => u.Closed ∧ u.enabled = false) h ⟨closed_resetWith, rfl⟩ ?_)
    rintro j u v hj hu hv ⟨hclosed, hdisabled⟩
    have hno := fun i => hnoenable j u i hj hu
    have hquiet (i : Instr) (hi : u.nextInstr = some i) (he : enables i u = true) : u.drvFault = true := by
      simp [hno i hi] at he
    exact ⟨everyStepKeepsTheGateClosed u v hclosed hv fun i hi =>
        ⟨hstages j u i hj hu hi, fun _ => hdisabled, hquiet i hi⟩,
      step_keeps_disabled hv hdisabled hno⟩

/-! ### The invariants of a reachable state (R46) -/

theorem Reachable.inv {c : Config} {s : State} (hw : c.wf = true) (h : Reachable c s) : s.cfg = c ∧ s.Inv := by
  induction h with
  | start ins => exact ⟨rfl, inv_resetWith hw⟩
  | next _ h ih =>
    obtain ⟨hcfg, hinv⟩ := ih
    exact ⟨(step_cfg h).trans hcfg, everyStepKeepsTheInvariant _ _ hinv h⟩

theorem step_of_resetNext {s t : State} (h : step s = .next t) (hr : s.resetNext = true) : t.direction = .unknown := by
  obtain ⟨-, ⟨hi, -⟩ | ⟨w, rest, st, v, u, hi, -⟩ | ⟨p, rest, -, rfl⟩⟩ := step_update h
  · simp [resetNext_of_nil hi] at hr
  · simp [resetNext_of_command hi] at hr
  · rfl

theorem rotorRuns_iff {s : State} :
    s.rotorRuns = true ↔ s.nextInstr = some .rotorStep ∧ s.rotorPending = true ∧ s.halted = false := by
  simp [State.rotorRuns, and_assoc]

/-- A ROTOR_STEP that runs and finds a direction writes the speed of the tick count it sees. -/
theorem step_of_rotorRuns {s t : State} (h : step s = .next t) (hr : s.rotorRuns = true) (hd : t.direction ≠ .unknown) :
    1 ≤ s.countsElapsed.toNat ∧
      t.velocity.toInt = t.direction.sign * ((s.cfg.hallK / s.countsElapsed.toNat : Nat) : Int) := by
  obtain ⟨hn, hp, hh⟩ := rotorRuns_iff.mp hr
  obtain ⟨hw, ⟨hi, -⟩ | ⟨w, rest, st, v, u, -, rfl, hu⟩ | ⟨p, rest, hi, rfl⟩⟩ := step_update h
  · simp [nextInstr_of_nil hi] at hn
  · rw [hn] at hu
    cases hu with
    | idle hidle => 
      obtain h | h := hidle
      · simp [hh] at h
      · have : s.rotorPending = false := h _ rfl
        simp [hp] at this
    | noEdge | glitch => exact absurd rfl hd
    | classified _ _ hnz _ =>
      refine ⟨Nat.one_le_iff_ne_zero.mpr fun hz => hnz (BitVec.eq_of_toNat_eq hz), ?_⟩
      exact narrow32_signedSpeed_toInt hw _ _
  · exact absurd rfl hd

/-- Any other step but a reset keeps the cached pair. -/
theorem step_keeps_speed {s t : State} (h : step s = .next t) (hr : s.resetNext = false) (hrun : s.rotorRuns = false) :
    t.velocity = s.velocity ∧ t.direction = s.direction := by
  obtain ⟨-, ⟨-, rfl⟩ | ⟨w, rest, st, v, u, -, rfl, hu⟩ | ⟨p, rest, hi, -⟩⟩ := step_update h
  · exact ⟨rfl, rfl⟩
  · refine hu.speed_eq fun hn => ?_
    have hwaits : s.halted = true ∨ s.rotorPending = false := by
      simpa [State.rotorRuns, hn, or_iff_not_imp_right] using hrun
    exact hwaits
  · simp [State.resetNext, hi] at hr

/-- Where the cached pair of `s` comes from (R46(c)): a ROTOR_STEP that ran at a reachable `u`, with no other one that
runs and no reset since. -/
def SpeedOrigin (c : Config) (s : State) : Prop :=
  ∃ (u v : State) (k : Nat), Reachable c u ∧ u.rotorRuns = true ∧ step u = .next v ∧ runSteps k v = .next s ∧
    (∀ (j : Nat) (x : State), j < k → runSteps j v = .next x → x.rotorRuns = false ∧ x.resetNext = false) ∧
    v.velocity = s.velocity ∧ v.direction = s.direction ∧ 1 ≤ u.countsElapsed.toNat ∧
    absOf s.velocity.toInt = ((c.hallK / u.countsElapsed.toNat : Nat) : Int)

theorem absOf_sign_mul {d : Direction} (hd : d ≠ .unknown) (n : Nat) : absOf (d.sign * (n : Int)) = n := by
  rw [absOf_eq_natAbs, Int.natAbs_mul, Int.natAbs_natCast]
  cases d with
  | unknown => exact absurd rfl hd
  | forward | reverse => simp [Direction.sign]

theorem signOf_sign_mul {d : Direction} {n : Nat} (hn : 1 ≤ n) : signOf (d.sign * (n : Int)) = d.sign := by
  cases d <;> simp only [Direction.sign, signOf] <;> split_ifs <;> omega

theorem SpeedOrigin.next {c : Config} {s t : State} (hs : SpeedOrigin c s) (h : step s = .next t)
    (hrun : s.rotorRuns = false) (hreset : s.resetNext = false) : SpeedOrigin c t := by
  obtain ⟨u, v, k, hu, hruns, hv, hk, hbetween, hvel, hdir, hcounts, habs⟩ := hs
  obtain ⟨hvel', hdir'⟩ := step_keeps_speed h hreset hrun
  refine ⟨u, v, k + 1, hu, hruns, hv, runSteps_snoc hk h, ?_, hvel.trans hvel'.symm, hdir.trans hdir'.symm, hcounts,
    hvel' ▸ habs⟩
  intro j x hj hx
  obtain hlt | rfl : j < k ∨ j = k := by omega
  · exact hbetween j x hlt hx
  · rw [hk] at hx
    cases hx
    exact ⟨hrun, hreset⟩

theorem Reachable.speedOrigin {c : Config} {s : State} (hw : c.wf = true) (h : Reachable c s)
    (hd : s.direction ≠ .unknown) : SpeedOrigin c s := by
  induction h with
  | start ins => exact absurd rfl hd
  | @next s t hs h ih =>
    cases hreset : s.resetNext with
    | true => exact absurd (step_of_resetNext h hreset) hd
    | false =>
      cases hrun : s.rotorRuns with
      | true =>
        obtain ⟨hcounts, hspeed⟩ := step_of_rotorRuns h hrun hd
        obtain ⟨hcfg, -⟩ := hs.inv hw
        refine ⟨s, t, 0, hs, hrun, h, rfl, by omega, rfl, rfl, hcounts, ?_⟩
        rw [hspeed, absOf_sign_mul hd, hcfg]
      | false =>
        obtain ⟨-, hdir⟩ := step_keeps_speed h hreset hrun
        exact (ih (hdir ▸ hd)).next h hrun hreset

/-- Settles O47: the invariants hold at reset and are kept by every step, and so is the origin of the cached pair, which
a ROTOR_STEP that runs sets anew. -/
theorem reachableStatesSatisfyR46 : Obligations.ReachableStatesSatisfyR46 := by
  unfold Obligations.ReachableStatesSatisfyR46
  intro c s hw h
  obtain ⟨hcfg, hinv⟩ := h.inv hw
  refine ⟨hcfg, hcfg ▸ hinv.semiBound, hcfg ▸ hinv.lastBound, fun hd => ?zero, fun hd => ⟨?sign, h.speedOrigin hw hd⟩,
    hinv.hallPair, ?outputs⟩
  case zero =>
    obtain ⟨-, hv⟩ | ⟨hne, -⟩ := hinv.speed
    · exact hv
    · exact absurd hd hne
  case sign =>
    obtain ⟨hun, -⟩ | ⟨-, t, ht1, ht, hv⟩ := hinv.speed
    · exact absurd hun hd
    · rw [hv]
      exact signOf_sign_mul (speedFromTicks_pos hinv.config ht1 ht)
  case outputs =>
    have houtputs := hinv.outputs
    rw [List.getLastD_eq_getLast?] at houtputs
    cases hlast : s.commits.getLast? with
    | none => exact .inl (by rw [houtputs, hlast]; rfl)
    | some x => exact .inr (by rw [houtputs, hlast]; rfl)

end Sys2Proof.Machine
end

section
/-! The two sequencers (spec/20_memory.md R70, R73; spec/70_reset_and_hazards.md R236, R251): each step consumes its own
signal and posts none. -/

namespace Sys2Proof.Machine

section
variable {s t : State}

/-- After a ROTOR_STEP nothing is pending for it, and it writes nothing of the other sequencer. -/
theorem exec_rotorStep_settles (h : exec .rotorStep s = .next t) (hh : s.halted = false) :
    t.rotorPending = false ∧ t.halted = false ∧ t.commPending = s.commPending := by
  obtain ⟨-, st, v, u, rfl, hu⟩ := exec_update h
  cases hu with
  | idle hidle =>
    obtain hhalted | hidle := hidle
    · simp [hh] at hhalted
    · exact ⟨hidle _ rfl, hh, rfl⟩
  | noEdge | glitch | classified => exact ⟨rfl, hh, rfl⟩

/-- After a COMM_STEP nothing is pending for it, and it writes nothing of the other sequencer, nor the amplitude. -/
theorem exec_commStep_settles {live : HallCode} (h : exec (.commStep live) s = .next t) (hh : s.halted = false) :
    t.commPending = false ∧ t.halted = false ∧ t.rotorPending = s.rotorPending ∧ t.semiAmplitude = s.semiAmplitude := by
  obtain ⟨-, st, v, u, rfl, hu⟩ := exec_update h
  cases hu with
  | idle hidle =>
    obtain hhalted | hidle := hidle
    · simp [hh] at hhalted
    · exact ⟨hidle _ rfl, hh, rfl, rfl⟩
  | commit => rw [commUpdate_eq]; exact ⟨rfl, hh, rfl, rfl⟩

section
variable (hw : s.cfg.wf = true) (hh : s.halted = false)
include hw hh

/-- With nothing pending a ROTOR_STEP answers FAIL and changes nothing (R126). -/
theorem exec_rotorStep_of_waiting (hp : s.rotorPending = false) : exec .rotorStep s = .next (answered .fail 0 s) :=
  exec_of_effect hw hh (.inl ⟨hp, rfl⟩)

/-- With nothing pending a COMM_STEP answers FAIL and changes nothing (R146). -/
theorem exec_commStep_of_waiting (hp : s.commPending = false) (live : HallCode) :
    exec (.commStep live) s = .next (answered .fail 0 s) :=
  exec_of_effect hw hh (.inl ⟨hp, rfl⟩)

end

theorem quiescent_iff : s.quiescent = true ↔ s.rotorPending = false ∧ s.commPending = false ∧ s.halted = false := by
  simp [State.quiescent, and_assoc]

end

/-- Settles O48: each step consumes its signal and the second leaves the first sequencer waiting. -/
theorem oneStepOfEachSequencerSettles : Obligations.OneStepOfEachSequencerSettles := by
  unfold Obligations.OneStepOfEachSequencerSettles
  intro s live hs
  obtain ⟨hw, hh⟩ := hs
  obtain ⟨t, ht⟩ := exists_exec hw .rotorStep
  obtain ⟨hrotor, hht, -⟩ := exec_rotorStep_settles ht hh
  have hwt : t.cfg.wf = true := by rw [exec_cfg ht, hw]
  obtain ⟨u, hu⟩ := exists_exec hwt (.commStep live)
  obtain ⟨hcomm, hhu, hrotor', -⟩ := exec_commStep_settles hu hht
  rw [hrotor] at hrotor'
  have hwu : u.cfg.wf = true := by rw [exec_cfg hu, hwt]
  exact ⟨t, u, ht, hu, quiescent_iff.mpr ⟨hrotor', hcomm, hhu⟩, exec_rotorStep_of_waiting hwu hhu hrotor',
    exec_commStep_of_waiting hwu hhu hcomm⟩

/-! ### Fair runs of the sequencers (R251) -/

/-- A signal that no step posts stays consumed. -/
theorem stays_false {f : Nat → Bool} (hstep : ∀ n, f n = false → f (n + 1) = false) {n m : Nat} (h : f n = false)
    (hnm : n ≤ m) : f m = false := by
  induction m, hnm using Nat.le_induction with
  | base => exact h
  | succ m _ ih => exact hstep m ih

section
variable {sched : Nat → Instr} {run : Nat → State} (hrun : SequencerRun sched run)
include hrun

theorem SequencerRun.exec_eq (n : Nat) : exec (sched n) (run n) = .next (run (n + 1)) := by
  obtain ⟨-, hexec⟩ := hrun
  exact hexec n

/-- Neither sequencer halts the block, or posts the other's signal or its own. -/
theorem SequencerRun.step (n : Nat) (hh : (run n).halted = false) :
    (run (n + 1)).halted = false ∧ ((run n).rotorPending = false → (run (n + 1)).rotorPending = false) ∧
      ((run n).commPending = false → (run (n + 1)).commPending = false) := by
  have h := hrun.exec_eq n
  obtain ⟨hsched, -⟩ := hrun
  obtain hi | ⟨live, hi⟩ := hsched n <;> rw [hi] at h
  · obtain ⟨hrotor, hhalted, hcomm⟩ := exec_rotorStep_settles h hh
    exact ⟨hhalted, fun _ => hrotor, fun hc => hcomm.trans hc⟩
  · obtain ⟨hcomm, hhalted, hrotor, -⟩ := exec_commStep_settles h hh
    exact ⟨hhalted, fun hr => hrotor.trans hr, fun _ => hcomm⟩

variable (hh0 : (run 0).halted = false)
include hh0

theorem SequencerRun.running (n : Nat) : (run n).halted = false := by
  induction n with
  | zero => exact hh0
  | succ n ih =>
    obtain ⟨hhalted, -, -⟩ := hrun.step n ih
    exact hhalted

variable (hfair : WeaklyFair sched run)
include hfair

theorem SequencerRun.exists_rotor_waiting : ∃ n, (run n).rotorPending = false := by
  cases hp : (run 0).rotorPending with
  | false => exact ⟨0, hp⟩
  | true =>
    obtain ⟨hrotor, -⟩ := hfair 0 hh0
    obtain ⟨m, -, hm⟩ := hrotor hp
    have h := hrun.exec_eq m
    rw [hm] at h
    obtain ⟨hwaits, -, -⟩ := exec_rotorStep_settles h (hrun.running hh0 m)
    exact ⟨m + 1, hwaits⟩

theorem SequencerRun.exists_comm_waiting : ∃ n, (run n).commPending = false := by
  cases hp : (run 0).commPending with
  | false => exact ⟨0, hp⟩
  | true =>
    obtain ⟨-, hcomm⟩ := hfair 0 hh0
    obtain ⟨m, -, live, hm⟩ := hcomm hp
    have h := hrun.exec_eq m
    rw [hm] at h
    obtain ⟨hwaits, -, -, -⟩ := exec_commStep_settles h (hrun.running hh0 m)
    exact ⟨m + 1, hwaits⟩

end

/-- Settles O49: each signal is consumed at some step, by fairness, and stays consumed. -/
theorem fairSequencersReachQuiescence : Obligations.FairSequencersReachQuiescence := by
  unfold Obligations.FairSequencersReachQuiescence
  intro sched run hrun hfair hh0
  obtain ⟨a, ha⟩ := hrun.exists_rotor_waiting hh0 hfair
  obtain ⟨b, hb⟩ := hrun.exists_comm_waiting hh0 hfair
  have hrotor (n : Nat) : (run n).rotorPending = false → (run (n + 1)).rotorPending = false := by
    obtain ⟨-, hstays, -⟩ := hrun.step n (hrun.running hh0 n)
    exact hstays
  have hcomm (n : Nat) : (run n).commPending = false → (run (n + 1)).commPending = false := by
    obtain ⟨-, -, hstays⟩ := hrun.step n (hrun.running hh0 n)
    exact hstays
  exact ⟨max a b, fun m hm => quiescent_iff.mpr
    ⟨stays_false hrotor ha (by omega), stays_false hcomm hb (by omega), hrun.running hh0 m⟩⟩

/-! ### The order of edges and of writes -/

/-- An edge with a new code is accepted by a running block. -/
theorem exec_hallEdge_of_new {s t : State} {code : HallCode} {ticks : Width16}
    (h : exec (.hallEdge code ticks) s = .next t) (hh : s.halted = false) (hnew : code ≠ s.hallCur) :
    t = respond .ok 0 (acceptEdge code ticks s) := by
  obtain ⟨-, ⟨hhalted, -⟩ | ⟨-, ⟨hold, -⟩ | ⟨-, rfl⟩⟩⟩ := exec_next h
  · simp [hh] at hhalted
  · exact absurd hold hnew
  · rfl

/-- Settles O20: the second edge moves the first code to `hall_prev` and clears the overflow flag, so the step sees the
later pair and the later tick count. -/
theorem overtakenTransitionIsNeverClassified : Obligations.OvertakenTransitionIsNeverClassified := by
  unfold Obligations.OvertakenTransitionIsNeverClassified
  intro s t u v c1 c2 n1 n2 hh h1 h2 hn ht hu hv
  obtain rfl := exec_hallEdge_of_new ht hh h1
  obtain rfl := exec_hallEdge_of_new hu hh h2
  obtain ⟨-, st, w, x, rfl, hx⟩ := exec_update hv
  cases hx with
  | idle hidle =>
    obtain hhalted | hidle := hidle
    · simp [hh] at hhalted
    · have hpending : true = false := hidle .rotorStep rfl
      cases hpending
  | noEdge _ _ hz => exact absurd hz hn
  | glitch _ _ _ hd =>
    have hd : classifyDirection s.cfg c1 c2 = .unknown := hd
    rw [if_pos hd, hd]
    exact ⟨rfl, rfl, rfl, rfl⟩
  | classified _ _ _ hd =>
    have hd : classifyDirection s.cfg c1 c2 ≠ .unknown := hd
    rw [if_neg hd]
    exact ⟨rfl, rfl, rfl, rfl⟩

section
variable {s : State} (hw : s.cfg.wf = true) (hh : s.halted = false)
include hw hh

theorem exec_signalChange : exec .signalChange s = .next (respond .ok 0 (postComm s)) := exec_of_effect hw hh rfl

theorem exec_writeAmplitude_of_le {v : Width16Diff} (hv : absOf (s16 v) ≤ s.cfg.maxAmp) :
    exec (.writeAmplitude v) s = .next (respond .ok 0 (setSemiAmplitude v s)) :=
  exec_of_effect hw hh (.inr ⟨hv.not_gt, rfl⟩)

end

/-- A COMM_STEP that runs with its gate open, an angle and a legal amplitude other than 0 drives with it. -/
theorem driven_of_commStep {s t : State} {live : HallCode} (h : exec (.commStep live) s = .next t)
    (hh : s.halted = false) (hp : s.commPending = true) (he : s.enabled = true) (hf : s.drvFault = false)
    (hvalid : validCode (angleCode s.hallCur live) = true) (hnz : s.semiAmplitude ≠ 0)
    (hamp : absOf (s16 s.semiAmplitude) ≤ s.cfg.maxAmp) :
    Driven s.cfg.maxAmp (s16 s.semiAmplitude) t.active := by
  obtain ⟨hw, angle, hangle, hactive⟩ := active_of_commStep hh hp h
  obtain ⟨a, ha⟩ := Config.exists_hallAngleAt hw hvalid
  rw [computeAngle_of_valid hvalid ha] at hangle
  cases hangle
  rw [hactive, commPattern_of_nonzero he hf hnz]
  exact driven_drivenPattern hw hamp

/-- Settles O29: a COMM_STEP consumes the signal and does not write the amplitude, so in the wrong order nothing is
pending for the second one, and in the right order the first one drives with the amplitude just written. -/
theorem writeThenSignalIsTheWorkingOrder : Obligations.WriteThenSignalIsTheWorkingOrder := by
  unfold Obligations.WriteThenSignalIsTheWorkingOrder
  intro s v live hs hv
  obtain ⟨hw, hh⟩ := hs
  constructor
  · have ha := exec_signalChange hw hh
    obtain ⟨b, hb⟩ := exists_exec (s := respond .ok 0 (postComm s)) hw (.commStep live)
    obtain ⟨hwaits, hhb, -, -⟩ := exec_commStep_settles hb hh
    have hcfg : b.cfg = s.cfg := (exec_cfg hb).trans rfl
    have hwb : b.cfg.wf = true := hcfg ▸ hw
    have hc := exec_writeAmplitude_of_le hwb hhb (v := v) (hcfg ▸ hv)
    have hd := exec_commStep_of_waiting (s := respond .ok 0 (setSemiAmplitude v b)) hwb hhb hwaits live
    exact ⟨_, b, _, _, ha, hb, hc, hd, rfl, rfl, rfl⟩
  · have ha := exec_writeAmplitude_of_le hw hh hv
    have hb := exec_signalChange (s := respond .ok 0 (setSemiAmplitude v s)) hw hh
    obtain ⟨c, hc⟩ :=
      exists_exec (s := respond .ok 0 (postComm (respond .ok 0 (setSemiAmplitude v s)))) hw (.commStep live)
    obtain ⟨hwaits, -, -, hamp⟩ := exec_commStep_settles hc hh
    exact ⟨_, _, c, ha, hb, hc, hamp, hwaits, fun he hf hvalid hnz => driven_of_commStep hc hh rfl he hf hvalid hnz hv⟩

end Sys2Proof.Machine
end

section
/-! The error conditions (spec/60_exceptions.md R200 to R207): which operation meets each in which state, as
`conditionOf` reads them, and what the operation then does. -/

namespace Sys2Proof.Machine

section
variable {i : Instr} {s : State}

/-! ### Which operation meets which condition -/

/-- COMPUTE_VELOCITY meets condition 2 where it fails, and else condition 3 where its estimate may be stale. -/
theorem conditionOf_computeVelocity (now : Width16) (s : State) :
    conditionOf (.computeVelocity now) s =
      if s.countsElapsed = 0 ∨ s.direction = .unknown then some .velocityUnavailable
      else if s.hallOverflow = true ∨ elapsedEstimate now s > s.countsElapsed.toNat then some .staleOrOverflow
      else none := by
  simp [conditionOf]

theorem conditionOf_hallInvalid : conditionOf i s = some .hallInvalid ↔
    ∃ live, (validCode s.hallCur = false ∧ validCode live = false) ∧
      (i = .computeAngle live ∨ (i = .commStep live ∧ s.commPending = true)) := by
  cases i with
  | computeVelocity now => rw [conditionOf_computeVelocity]; split_ifs <;> simp
  | commStep live => simp [conditionOf, and_comm, and_left_comm]
  | _ => simp [conditionOf]

theorem conditionOf_velocityUnavailable : conditionOf i s = some .velocityUnavailable ↔
    (∃ now, i = .computeVelocity now) ∧ (s.countsElapsed = 0 ∨ s.direction = .unknown) := by
  cases i with
  | computeVelocity now => rw [conditionOf_computeVelocity]; split_ifs <;> simp_all
  | _ => simp [conditionOf]

theorem conditionOf_staleOrOverflow : conditionOf i s = some .staleOrOverflow ↔
    (∃ code ticks, i = .hallEdge code ticks ∧ code ≠ s.hallCur ∧ s.hallOverflow = true) ∨
      ∃ now, i = .computeVelocity now ∧ ¬ (s.countsElapsed = 0 ∨ s.direction = .unknown) ∧
        (s.hallOverflow = true ∨ elapsedEstimate now s > s.countsElapsed.toNat) := by
  cases i with
  | computeVelocity now => rw [conditionOf_computeVelocity]; split_ifs <;> simp_all
  | _ => simp [conditionOf]

theorem conditionOf_glitch : conditionOf i s = some .glitch ↔
    i = .rotorStep ∧ s.rotorPending = true ∧ s.countsElapsed ≠ 0 ∧
      classifyDirection s.cfg s.hallPrev s.hallCur = .unknown := by
  cases i with
  | computeVelocity now => rw [conditionOf_computeVelocity]; split_ifs <;> simp
  | _ => simp [conditionOf, and_assoc]

theorem conditionOf_servoSignalLoss : conditionOf i s = some .servoSignalLoss ↔
    (∃ period valid, i = .servoPeriod period valid ∧ ¬ (valid && widthAccepted s.cfg s.servoWidth) = true) ∨
      (i = .servoOvf ∧ s.cfg.servoOvfLimit ≤ (satInc8 s.servoOvfCount).toNat) := by
  cases i with
  | computeVelocity now => rw [conditionOf_computeVelocity]; split_ifs <;> simp
  | servoPeriod period valid => cases valid <;> simp [conditionOf]
  | _ => simp [conditionOf]

theorem conditionOf_driverFault : conditionOf i s = some .driverFault ↔ i = .faultPoll true := by
  cases i with
  | computeVelocity now => rw [conditionOf_computeVelocity]; split_ifs <;> simp
  | _ => simp [conditionOf]

theorem conditionOf_amplitudePrecondition : conditionOf i s = some .amplitudePrecondition ↔
    ∃ value, i = .writeAmplitude value ∧ absOf (s16 value) > s.cfg.maxAmp := by
  cases i with
  | computeVelocity now => rw [conditionOf_computeVelocity]; split_ifs <;> simp
  | _ => simp [conditionOf]

end

/-! ### What the operation then does -/

/-- An operation gives one outcome. -/
theorem eq_of_exec {i : Instr} {s t u : State} (h : exec i s = .next t) (h' : exec i s = .next u) : t = u :=
  Host.Outcome.next.inj (h.symm.trans h')

/-- `COUNT_MAX` fits a u16 (R7(c)). -/
theorem countMax_toNat {c : Config} (hw : c.wf = true) : (BitVec.ofNat 16 c.countMax).toNat = c.countMax := by
  obtain ⟨-, -, hcount, -⟩ := Config.wf_iff.mp hw
  simp only [Config.wfCountMax, Bool.and_eq_true, decide_eq_true_eq] at hcount
  rw [BitVec.toNat_ofNat, Nat.mod_eq_of_lt (by omega)]

/-- Settles O44, condition by condition: each names its operation and branch, whose result is known. -/
theorem conditionsAreReportedAsTheTaxonomySays : Obligations.ConditionsAreReportedAsTheTaxonomySays := by
  unfold Obligations.ConditionsAreReportedAsTheTaxonomySays
  intro i s t hh h
  obtain ⟨hw, -⟩ := exec_next h
  have result {u : State} := eq_of_exec (u := u) h
  refine ⟨fun hc => ?hallInvalid, fun hc => ?velocityUnavailable, fun hc => ?staleOrOverflow, fun hc => ?glitch,
    fun hc => ?servoSignalLoss, fun hc => ?driverFault, ?amplitudePrecondition⟩
  case hallInvalid =>
    obtain ⟨live, ⟨hcur, hlive⟩, rfl | ⟨rfl, hp⟩⟩ := conditionOf_hallInvalid.mp hc
    · have heffect : Effect (.computeAngle live) s (respond .fail 0 s) :=
        .inr ⟨computeAngle_of_both_invalid hcur hlive, rfl⟩
      exact .inl ⟨live, rfl, result (exec_of_effect hw hh heffect)⟩
    · have hcode : validCode (angleCode s.hallCur live) = false := by rw [validCode_angleCode, hcur, hlive]; rfl
      obtain rfl := result (exec_commStep_of_no_angle hw hh hp hcode)
      exact .inr ⟨live, rfl, rfl, rfl, rfl⟩
  case velocityUnavailable =>
    obtain ⟨⟨now, rfl⟩, hfails⟩ := conditionOf_velocityUnavailable.mp hc
    have heffect : Effect (.computeVelocity now) s (respond .fail 0 s) := .inl ⟨hfails, rfl⟩
    exact result (exec_of_effect hw hh heffect)
  case staleOrOverflow =>
    obtain ⟨code, ticks, rfl, hnew, hovf⟩ | ⟨now, rfl, hok, -⟩ := conditionOf_staleOrOverflow.mp hc
    · obtain rfl := exec_hallEdge_of_new h hh hnew
      have hcounts : (respond .ok 0 (acceptEdge code ticks s)).countsElapsed = BitVec.ofNat 16 s.cfg.countMax :=
        if_pos hovf
      exact .inl ⟨code, ticks, rfl, by rw [hcounts, countMax_toNat hw], rfl, rfl⟩
    · have heffect : Effect (.computeVelocity now) s (respond .ok (queriedVelocity now s) s) := .inr ⟨hok, rfl⟩
      refine .inr ⟨now, queriedVelocity now s, elapsedEstimate now s, rfl, result (exec_of_effect hw hh heffect), rfl,
        fun hstale => ?_, queriedVelocity_of_fresh⟩
      rw [queriedVelocity_of_stale hstale]
      exact narrow32_signedSpeed_toInt hw _ _
  case glitch =>
    obtain ⟨rfl, hp, hnz, hd⟩ := conditionOf_glitch.mp hc
    have hrun := exec_rotorStep_of_pending hw hh hp
    rw [rotorUpdate_of_glitch (s := consumeRotor s) hnz hd] at hrun
    obtain rfl := result hrun
    exact ⟨rfl, rfl, rfl, rfl⟩
  case servoSignalLoss =>
    obtain ⟨period, valid, rfl, hnot⟩ | ⟨rfl, hlimit⟩ := conditionOf_servoSignalLoss.mp hc
    · have hrun := exec_servoPeriod hw hh period valid
      rw [throttleUpdate_of_not_qualifying (s := setServoPeriod period s) hnot] at hrun
      obtain rfl := result hrun
      exact ⟨rfl, rfl, rfl, rfl, rfl⟩
    · have hrun := exec_servoOvf hw hh
      rw [servoOverflow_of_ge hlimit] at hrun
      obtain rfl := result hrun
      exact ⟨rfl, rfl, rfl, rfl, rfl⟩
  case driverFault =>
    obtain rfl := conditionOf_driverFault.mp hc
    have heffect : Effect (.faultPoll true) s (respond .ok 0 (postComm (setDrvFault true s))) := rfl
    obtain rfl := result (exec_of_effect hw hh heffect)
    exact ⟨rfl, rfl, rfl⟩
  case amplitudePrecondition =>
    rw [conditionOf_amplitudePrecondition]
    constructor
    · rintro ⟨value, rfl, hgt⟩
      have heffect : Effect (.writeAmplitude value) s (respond .halted 0 (emit (.halt value) (latchHalted s))) :=
        .inl ⟨hgt, rfl⟩
      obtain rfl := result (exec_of_effect hw hh heffect)
      rfl
    · intro ht
      obtain ⟨-, ⟨hhalted, -⟩ | ⟨-, he⟩⟩ := exec_next h
      · simp [hh] at hhalted
      · exact he.halted_eq_or_outOfRange.resolve_left (by simp [hh, ht])

end Sys2Proof.Machine
end

section
/-! Well-formed configurations (spec/00_scope.md R7): the clauses as statements about the parameters and the tables, and
the refusal of every other configuration. -/

namespace Sys2Proof

/-! ### The Hall tables (R7(i)) -/

theorem validCode_eq_false_iff {k : HallCode} : validCode k = false ↔ k = 0 ∨ k = 7 := by
  revert k; decide

theorem validCodes_nodup : validCodes.Nodup := by decide

/-- Exactly the six valid codes have an angle, and no two the same. -/
theorem Config.wfHallAngle_iff {c : Config} :
    c.wfHallAngle = true ↔
      (∀ k : HallCode, c.hallAngleAt k = none ↔ (k = 0 ∨ k = 7)) ∧
      ∀ j k : HallCode, validCode j = true → validCode k = true → c.hallAngleAt j = c.hallAngleAt k → j = k := by
  have hinj : (validCodes.map c.hallAngleAt).Nodup ↔
      ∀ j k : HallCode, validCode j = true → validCode k = true → c.hallAngleAt j = c.hallAngleAt k → j = k := by
    rw [List.nodup_map_iff_inj_on validCodes_nodup]
    simp only [mem_validCodes]
    exact ⟨fun h j k hj hk => h j hj k hk, fun h j hj k hk => h j k hj hk⟩
  simp only [Config.wfHallAngle, Bool.and_eq_true, decide_eq_true_eq, hinj, Option.isNone_iff_eq_none, List.all_eq_true,
    mem_validCodes]
  refine and_congr_left fun _ => ⟨?_, fun h => ⟨⟨(h 0).mpr (.inl rfl), (h 7).mpr (.inr rfl)⟩, fun k hk => ?_⟩⟩
  · rintro ⟨⟨hzero, hseven⟩, hsome⟩ k
    refine ⟨fun hnone => validCode_eq_false_iff.mp (Bool.eq_false_iff.mpr fun hk => ?_), ?_⟩
    · have := hsome k hk
      rw [hnone] at this
      cases this
    · rintro (rfl | rfl)
      · exact hzero
      · exact hseven
  · rw [Option.isSome_iff_ne_none]
    intro hnone
    rw [validCode_eq_false_iff.mpr ((h k).mp hnone)] at hk
    cases hk

/-- The code after `n` steps along `HALL_NEXT`, if the table leads that far. -/
def Config.hallIter (c : Config) (n : Nat) (k : HallCode) : Option HallCode :=
  (fun o => Option.bind o c.hallNextAt)^[n] (some k)

theorem Config.hallIter_succ (c : Config) (n : Nat) (k : HallCode) :
    c.hallIter (n + 1) k = (c.hallIter n k).bind c.hallNextAt := Function.iterate_succ_apply' _ _ _

/-- The codes met from `k` are the iterates. -/
theorem Config.hallOrbit_getElem? (c : Config) {n i : Nat} (k : HallCode) (h : i < n) :
    (c.hallOrbit n k)[i]? = c.hallIter (i + 1) k := by
  induction i with
  | zero =>
    obtain ⟨m, rfl⟩ : ∃ m, n = m + 1 := ⟨n - 1, by omega⟩
    exact c.hallOrbit_getElem?_zero m k
  | succ i ih => rw [c.hallOrbit_getElem?_succ k h, ih (by omega), ← c.hallIter_succ]

theorem Config.hallOrbit_length_le (c : Config) (n : Nat) (k : HallCode) : (c.hallOrbit n k).length ≤ n := by
  induction n generalizing k with
  | zero => exact Nat.le_refl 0
  | succ n ih =>
    rw [Config.hallOrbit]
    cases c.hallNextAt k with
    | none => exact Nat.zero_le _
    | some k' => exact Nat.succ_le_succ (ih k')

/-- Along the six-cycle `n` steps lead from each place to the `n`-th after it. -/
theorem Config.hallIter_of_getElem? {c : Config} (hw : c.wf = true) {i : Nat} {j : HallCode} (hi : i < 6)
    (hj : (c.hallOrbit 6 1)[i]? = some j) (n : Nat) : c.hallIter n j = (c.hallOrbit 6 1)[(i + n) % 6]? := by
  obtain ⟨-, -, -, hrotates⟩ := Config.hallOrbit_sixCycle hw
  induction n with
  | zero => rw [Nat.add_zero, Nat.mod_eq_of_lt hi, hj]; rfl
  | succ n ih =>
    rw [c.hallIter_succ, ih, hrotates _ (Nat.mod_lt _ (by decide)), Nat.mod_add_mod, Nat.add_assoc]

/-- From every valid code six steps along `HALL_NEXT` meet exactly the valid codes. -/
def Config.HallNextIsSixCycle (c : Config) : Prop :=
  ∀ j k : HallCode, validCode j = true → (validCode k = true ↔ ∃ n, 1 ≤ n ∧ n ≤ 6 ∧ c.hallIter n j = some k)

theorem Config.hallNextIsSixCycle_of_wf {c : Config} (hw : c.wf = true) : c.HallNextIsSixCycle := by
  obtain ⟨hlen, -, hcovers, -⟩ := Config.hallOrbit_sixCycle hw
  have hvalid : ∀ k ∈ c.hallOrbit 6 1, validCode k = true := by
    obtain ⟨-, -, -, -, -, -, -, -, -, hnext, -⟩ := Config.wf_iff.mp hw
    simp only [Config.wfHallNext, Bool.and_eq_true, List.all_eq_true] at hnext
    obtain ⟨⟨-, hall⟩, -⟩ := hnext
    exact hall
  intro j k hj
  obtain ⟨a, ha⟩ := List.mem_iff_getElem?.mp (hcovers j hj)
  obtain ⟨ha6, -⟩ := List.getElem?_eq_some_iff.mp ha
  have hiter := Config.hallIter_of_getElem? hw (by omega) ha
  constructor
  · intro hk
    obtain ⟨b, hb⟩ := List.mem_iff_getElem?.mp (hcovers k hk)
    obtain ⟨hb6, -⟩ := List.getElem?_eq_some_iff.mp hb
    have hplace : (a + ((b + 5 - a) % 6 + 1)) % 6 = b := by omega
    exact ⟨(b + 5 - a) % 6 + 1, by omega, by omega, by rw [hiter, hplace, hb]⟩
  · rintro ⟨n, -, -, hn⟩
    rw [hiter] at hn
    exact hvalid k (List.mem_of_getElem? hn)

/-- If the six iterates of code 1 are the six valid codes, then its orbit lists each of them once. -/
theorem Config.hallOrbit_perm {c : Config} (h : c.HallNextIsSixCycle) : (c.hallOrbit 6 1).Perm validCodes := by
  have hsub : validCodes ⊆ c.hallOrbit 6 1 := by
    intro k hk
    obtain ⟨n, h1, h6, hn⟩ := (h 1 k rfl).mp (mem_validCodes.mp hk)
    obtain ⟨i, rfl⟩ : ∃ i, n = i + 1 := ⟨n - 1, by omega⟩
    rw [← c.hallOrbit_getElem? (n := 6) 1 (by omega)] at hn
    exact List.mem_of_getElem? hn
  exact ((List.subperm_of_subset validCodes_nodup hsub).perm_of_length_le (c.hallOrbit_length_le 6 1)).symm

theorem Config.wfHallNext_of_hallNextIsSixCycle {c : Config} (h : c.HallNextIsSixCycle) : c.wfHallNext = true := by
  have hperm := Config.hallOrbit_perm h
  have hlen : (c.hallOrbit 6 1).length = 6 := hperm.length_eq
  have hnodup : (c.hallOrbit 6 1).Nodup := hperm.nodup_iff.mpr validCodes_nodup
  have valid1 : validCode 1 = true := rfl
  have hlast : (c.hallOrbit 6 1)[5]? = some 1 := by
    obtain ⟨i, hi⟩ := List.mem_iff_getElem?.mp (hperm.mem_iff.mpr (mem_validCodes.mpr valid1))
    obtain ⟨hlt, -⟩ := List.getElem?_eq_some_iff.mp hi
    obtain hi5 | rfl : i + 1 < 6 ∨ i = 5 := by omega
    · have hnext := c.hallOrbit_getElem?_succ 1 hi5
      rw [hi, Option.bind_some, ← c.hallOrbit_getElem?_zero 5 1] at hnext
      have := (List.getElem?_inj (by omega) hnodup).mp hnext
      omega
    · exact hi
  simp only [Config.wfHallNext, Bool.and_eq_true, decide_eq_true_eq, List.all_eq_true, List.getLast?_eq_getElem?, hlen]
  exact ⟨⟨⟨trivial, hnodup⟩, fun k hk => mem_validCodes.mp (hperm.mem_iff.mp hk)⟩, hlast⟩

/-! ### All clauses -/

/-- The clauses (a) to (h) as bounds on the parameters. -/
theorem Config.wf_iff_bounds {c : Config} :
    c.wf = true ↔
      (2 ≤ c.pwmPeriod ∧ c.pwmPeriod ≤ 65535) ∧ (6 ≤ c.hallCaptureFreqHz ∧ c.hallCaptureFreqHz ≤ 196607) ∧
      (1 ≤ c.countMax ∧ c.countMax ≤ 65535) ∧ 1000 ≤ c.servoCaptureFreqHz ∧
      (c.servoLow < c.servoHigh ∧ (c.servoDeadband : Int) < Machine.average c.servoLow c.servoHigh - c.servoLow ∧
        (c.servoDeadband : Int) < c.servoHigh - Machine.average c.servoLow c.servoHigh) ∧
      c.servoHigh + c.servoMargin ≤ 65535 ∧ c.slewLimit ≤ 65535 ∧ (1 ≤ c.servoOvfLimit ∧ c.servoOvfLimit ≤ 255) ∧
      c.wfHallAngle = true ∧ c.wfHallNext = true ∧ c.wfCommTable = true := by
  rw [Config.wf_iff]
  simp only [Config.wfPwmPeriod, Config.wfHallFreq, Config.wfCountMax, Config.wfServoFreq, Config.wfServoRange,
    Config.wfServoMargin, Config.wfSlewLimit, Config.wfOvfLimit, Bool.and_eq_true, decide_eq_true_eq, and_assoc]

end Sys2Proof

namespace Sys2Proof.Machine

/-- Every operation is performed through `operate`, which refuses an ill-formed configuration. -/
theorem exec_of_illFormed {s : State} (hw : s.cfg.wf = false) (i : Instr) : exec i s = .refused .illFormedConfig := by
  cases i <;> simp only [exec, execHallEdge, execHallOvf, execRotorStep, execComputeAngle, execComputeVelocity,
    execSignalChange, execWriteAmplitude, execGetMaxAmplitude, execCommStep, execSetEnable, execServoWidth,
    execServoPeriod, execServoOvf, execGetPeriod, execWriteChannel, execSyncModes, execFaultPoll] <;>
    exact operate_illFormed hw _

theorem step_of_illFormed {s : State} (hw : s.cfg.wf = false) : step s = .refused .illFormedConfig := by
  simp [step, hw]

/-- Settles O12: the bounds are the checks themselves; of the tables, the six iterates of code 1 are the orbit that is
checked, and in a well-formed table every code's iterates run through that orbit. -/
theorem illFormedConfigurationIsRefused : Obligations.IllFormedConfigurationIsRefused := by
  unfold Obligations.IllFormedConfigurationIsRefused
  refine ⟨fun c => ⟨fun hw => ?_, ?_⟩, fun s i hw => ⟨step_of_illFormed hw, exec_of_illFormed hw i⟩⟩
  · obtain ⟨ha, hb, hc, hd, he, hf, hg, hh, hangle, -, hcomm⟩ := Config.wf_iff_bounds.mp hw
    exact ⟨ha, hb, hc, hd, he, hf, hg, hh, Config.wfHallAngle_iff.mp hangle, Config.hallNextIsSixCycle_of_wf hw,
      Config.wfCommTable_iff.mp hcomm⟩
  · rintro ⟨ha, hb, hc, hd, he, hf, hg, hh, hangle, hnext, hcomm⟩
    exact Config.wf_iff_bounds.mpr ⟨ha, hb, hc, hd, he, hf, hg, hh, Config.wfHallAngle_iff.mpr hangle,
      Config.wfHallNext_of_hallNextIsSixCycle hnext, Config.wfCommTable_iff.mpr hcomm⟩

end Sys2Proof.Machine
end
